-- ==== Sys2Proof/Word.lean ====
section
/-! DEFINITION. The word types of the block: its register widths (10_state.md R10 to R25), and the
code words of its three instruction formats CMD, PHASE and PRIM (30_encoding.md R60, R61, R64, R73). -/

namespace Sys2Proof

/-- A 16-bit register, timeout or delay operand (R14, R15, R23, R24, R73). -/
abbrev U16 := BitVec 16

/-- One byte of the RawFrame (R65). -/
abbrev Byte := BitVec 8

/-- The 40-bit RawFrame register (R16). -/
abbrev Frame := BitVec 40

/-- An IEEE 754 binary32 pattern (R25, R71). -/
abbrev F32 := BitVec 32

/-- The capture index of a bit, 0 to 39 (R13, R70). The type has exactly the values the rules write, so
that the unreachable codes 40 to 63 of the 6-bit field cannot be written down (R72, 93_ U3). -/
abbrev BitIdx := Fin 40

/-- The index of a byte of the RawFrame, 0 to 4 (R16, R65). -/
abbrev ByteIdx := Fin 5

/-- SensorVariant, "one of {Variant11, Variant22}" (R62). -/
inductive Variant where
  | v11
  | v22
deriving DecidableEq, Repr

/-- The `fmt` field of a command: READ_RAW or READ_FLOAT (R63). -/
inductive Fmt where
  | raw
  | float
deriving DecidableEq, Repr

/-- The eleven named values of the `phase` register (R12, R64). Codes 11 to 15 are reserved and cannot
be expressed (R72). -/
inductive Phase where
  | idle
  | request
  | responseLow
  | responseHigh
  | dataReady
  | bitHigh
  | bitLow
  | check
  | parse
  | toFloat
  | done
deriving DecidableEq, Repr

/-- The three formats that have rows in the opcode table (R60, 30_encoding.md section 10). -/
inductive Format where
  | cmd
  | phase
  | prim
deriving DecidableEq, Repr

/-- A PRIM request (R73): the 3-bit request code and the operands that "travel beside the code": one bit
(SETDIR's `dir`, SETLVL's `level`, AWAIT's `expected`) and one u16 (DELAY's `n`, AWAIT's `timeout`). -/
structure PrimReq where
  code  : BitVec 3
  flag  : Bool
  ticks : U16
deriving DecidableEq, Repr

/-- PRIM code `000`: no primitive requested (R73). -/
def PrimReq.none : PrimReq := { code := 0, flag := false, ticks := 0 }

/-- A code word of one of the three formats. A PHASE word has the table's five bits, `variant_q` first and
then `phase[3:0]` (30_encoding.md section 10). -/
inductive CodeWord where
  | cmd   (bits : BitVec 2)
  | phase (bits : BitVec 5)
  | prim  (req : PrimReq)
deriving DecidableEq, Repr

/-- The format a code word belongs to. -/
def CodeWord.format : CodeWord → Format
  | .cmd _   => .cmd
  | .phase _ => .phase
  | .prim _  => .prim

end Sys2Proof
end

