-- ==== Sys2Proof/Config.lean ====
section
/-! DEFINITION. The configuration constants of 00_scope.md R6 to R8, the constraints of R7, the spec's
defaults, and the one free value of the model: the answer of the pin oracle (20_memory.md R44). -/

namespace Sys2Proof

/-- The bit-decision parameter `BITRULE` (R8): the normative relative comparison (R117), or the
fixed threshold `K` in ticks (R124). -/
inductive BitRule where
  | relative
  | fixedThreshold (k : Nat)
deriving DecidableEq, Repr

/-- The configuration constants of one instance of the block (R6). "A model takes every one of them as a
field of its configuration"; no command and no step writes them (R26). -/
structure Config where
  poll         : U16
  tRespLow     : U16
  tRespHigh    : U16
  tDataStart   : U16
  tBitHigh     : U16
  tBitLow      : U16
  tHoldLow     : U16
  tReleaseHigh : U16
  bitRule      : BitRule
deriving DecidableEq, Repr

/-- `N_BITS` (R6): fixed, not configurable. -/
abbrev nBits : Nat := 40

/-- `N_BYTES` (R6): fixed, not configurable. -/
abbrev nBytes : Nat := 5

namespace Config

/-- A timeout that leaves room for one more poll in 16 bits: `T + POLL <= 65535` (R7). -/
def timeoutFits (c : Config) (t : U16) : Bool :=
  decide (t.toNat + c.poll.toNat ≤ 65535)

/-- The constraints every instantiation must meet (R7). The two delays are u16 by their type. -/
def valid (c : Config) : Bool :=
  decide (1 ≤ c.poll.toNat) && c.timeoutFits c.tRespLow && c.timeoutFits c.tRespHigh &&
    c.timeoutFits c.tDataStart && c.timeoutFits c.tBitHigh && c.timeoutFits c.tBitLow

/-- The defaults of R6 (92_eei_decisions.md D4, D5, D8) with `BITRULE = Relative`. -/
def default : Config where
  poll         := 2
  tRespLow     := 85
  tRespHigh    := 85
  tDataStart   := 85
  tBitHigh     := 85
  tBitLow      := 85
  tHoldLow     := 20000
  tReleaseHigh := 30
  bitRule      := .relative

/-- `N(T) = floor(T / POLL) + 1`, the most samples one AWAIT with timeout `T` takes (R93). -/
def maxSamples (c : Config) (timeout : U16) : Nat :=
  timeout.toNat / c.poll.toNat + 1

/-- FREE VALUE (assumption 4). The answer of the `n`-th `PinRead()` when no explicit sample is queued:
"chosen by the environment, not by the block ... an unconstrained draw" (R44). No body, so no proof can
depend on what it is. -/
opaque freeLevel : Nat → Bool

end Config

end Sys2Proof
end

