-- ==== Sys2Proof/Syntax.lean ====
section
/-! DEFINITION. The instructions of the block: one constructor per row of spec/opcode_table.json
(30_encoding.md section 10), four commands, ten sequencer micro-operations, five leaf primitives. -/

namespace Sys2Proof

/-- One constructor per row of the opcode table. The operands of a command or a micro-operation are
implicit (R42, R64); the operands of a primitive travel beside its code (R73). -/
inductive Instr where
  /-- READ_RAW.V11, `cmd = 00` (R161). -/
  | readRawV11
  /-- READ_RAW.V22, `cmd = 01` (R162). -/
  | readRawV22
  /-- READ_FLOAT.V11, `cmd = 10` (R163). -/
  | readFloatV11
  /-- READ_FLOAT.V22, `cmd = 11` (R164). -/
  | readFloatV22
  /-- REQUEST, phase 1 (R111). -/
  | request
  /-- RESP_LOW, phase 2 (R112). -/
  | respLow
  /-- RESP_HIGH, phase 3 (R113). -/
  | respHigh
  /-- DATA_READY, phase 4 (R114). -/
  | dataReady
  /-- BIT_HI, phase 5 (R115). -/
  | bitHi
  /-- BIT_LO, phase 6 (R116). -/
  | bitLo
  /-- CHECK, phase 7 (R140). -/
  | check
  /-- PARSE11, phase 8 with `variant_q = 0` (R141). -/
  | parse11
  /-- PARSE22, phase 8 with `variant_q = 1` (R142). -/
  | parse22
  /-- TOFLOAT, phase 9 (R150). -/
  | toFloat
  /-- SETDIR `dir`, prim `001`: true = output (R90). -/
  | setdir (dir : Bool)
  /-- SETLVL `level`, prim `010`: true = high (R91). -/
  | setlvl (level : Bool)
  /-- GETLVL, prim `011` (R95). -/
  | getlvl
  /-- DELAY `n`, prim `100` (R96). -/
  | delay (n : U16)
  /-- AWAIT `expected`, `timeout`, prim `101` (R92). -/
  | await (expected : Bool) (timeout : U16)
deriving DecidableEq, Repr

/-- The format of an instruction's row in the opcode table. -/
def Instr.format : Instr → Format
  | .readRawV11   => .cmd
  | .readRawV22   => .cmd
  | .readFloatV11 => .cmd
  | .readFloatV22 => .cmd
  | .request      => .phase
  | .respLow      => .phase
  | .respHigh     => .phase
  | .dataReady    => .phase
  | .bitHi        => .phase
  | .bitLo        => .phase
  | .check        => .phase
  | .parse11      => .phase
  | .parse22      => .phase
  | .toFloat      => .phase
  | .setdir _     => .prim
  | .setlvl _     => .prim
  | .getlvl       => .prim
  | .delay _      => .prim
  | .await _ _    => .prim

end Sys2Proof
end

