-- ==== Sys2Proof/Machine/State.lean ====
section
/-! DEFINITION. The state of the machine: the block's own tuple (10_state.md R10), and beside it the plain
data through which the environment and the caller reach the block; the reset state (R30, R200); the reasons a
step can stop. -/

namespace Sys2Proof.Machine

/-- The values of the `status` register (R20, R69). Codes 6 and 7 are reserved, never written, and cannot
be expressed (R72). -/
inductive Status where
  | ok
  | timeoutAwaitingResponseLow
  | timeoutAwaitingResponseHigh
  | timeoutAwaitingDataStart
  | timeoutAwaitingBit
  | checksumMismatch
deriving DecidableEq, Repr

/-- The five kinds of typed failure, the only exceptions of the block (R175). -/
inductive Failure where
  /-- Raised by RESP_LOW (R176). -/
  | timeoutAwaitingResponseLow
  /-- Raised by RESP_HIGH (R177). -/
  | timeoutAwaitingResponseHigh
  /-- Raised by DATA_READY (R178). -/
  | timeoutAwaitingDataStart
  /-- Raised by BIT_HI and BIT_LO, with the index of the bit (R179). -/
  | timeoutAwaitingBit (index : BitIdx)
  /-- Raised by CHECK (R181). -/
  | checksumMismatch
deriving DecidableEq, Repr

/-- PulseObservation, the result of an AWAIT (R92): the level was reached, with the elapsed ticks, or the
wait timed out. A wait that timed out has no `elapsed` result (R99). -/
inductive PulseObservation where
  | reached (elapsed : U16)
  | timedOut
deriving DecidableEq, Repr

/-- What the last PRIM request returned (R73): GETLVL one bit, AWAIT a PulseObservation, the others
nothing. -/
inductive PrimResult where
  | none
  | level (b : Bool)
  | pulse (p : PulseObservation)
deriving DecidableEq, Repr

/-- The state tuple of the block: "Nothing else is state of the block" (R10). -/
structure Block where
  /-- R12: the micro-operation the sequencer runs next (4 bits). -/
  phase       : Phase
  /-- R13: the index of the bit being captured (6 bits, 0 to 39). -/
  bitIdx      : BitIdx
  /-- R14: the tick counter of the timing primitive. -/
  elapsed     : U16
  /-- R15: duration of the low phase of the bit being captured. -/
  lowDur      : U16
  /-- R15: duration of the high phase of the bit being captured. -/
  highDur     : U16
  /-- R16: the RawFrame under assembly. -/
  frame       : Frame
  /-- R11: the SensorVariant of the decode in progress (1 bit). -/
  variantQ    : Variant
  /-- R11: READ_RAW or READ_FLOAT (1 bit). -/
  fmtQ        : Fmt
  /-- R18: direction of the pin, true = the block drives it. -/
  pinOe       : Bool
  /-- R18: level driven while `pinOe` is true. -/
  pinOut      : Bool
  /-- R20: outcome of the last decode (3 bits). -/
  status      : Status
  /-- R21: the index of a `TimeoutAwaitingBit` (6 bits, 0 to 39). -/
  errIndex    : BitIdx
  /-- R22: the Reading is present. -/
  resultValid : Bool
  /-- R23: humidity in tenths. -/
  humTenths   : U16
  /-- R24: temperature in tenths, two's complement. -/
  tempTenths  : U16
  /-- R25: humidity as binary32. -/
  humF32      : F32
  /-- R25: temperature as binary32. -/
  tempF32     : F32
deriving DecidableEq, Repr

/-- Every register at its reset value (the table of R30). -/
def Block.reset : Block where
  phase       := .idle
  bitIdx      := 0
  elapsed     := 0
  lowDur      := 0
  highDur     := 0
  frame       := 0
  variantQ    := .v11
  fmtQ        := .raw
  pinOe       := false
  pinOut      := true
  status      := .ok
  errIndex    := 0
  resultValid := false
  humTenths   := 0
  tempTenths  := 0
  humF32      := 0
  tempF32     := 0

/-- The inputs of one step (R160: "inputs of the step, not state"): the ports `rst`, `start`, `cmd` of
43_commands.md section 1. `rst = some k`: reset is asserted `k` ticks after the step begins (assumption 6);
`rst = none`: it stays 0 throughout the step. -/
structure StepInput where
  rst   : Option Nat
  start : Bool
  cmd   : BitVec 2
deriving DecidableEq, Repr

/-- The inputs of a caller that asks for nothing. -/
def StepInput.quiet : StepInput := { rst := .none, start := false, cmd := 0 }

/-- One action on the pin, with the tick at which it happened (R43, R94). -/
inductive Event where
  /-- A `PinDrive(oe, out)` (R43). -/
  | drive  (tick : Nat) (oe out : Bool)
  /-- A `PinRead()` and its answer (R44). -/
  | sample (tick : Nat) (level : Bool)
deriving DecidableEq, Repr

/-- The instant of an event. -/
def Event.tick : Event → Nat
  | .drive t _ _ => t
  | .sample t _  => t

/-- The event is a sample. -/
def Event.isSample : Event → Bool
  | .drive _ _ _ => false
  | .sample _ _  => true

/-- The machine: the block's tuple, its configuration constants, and what reaches the block from outside
or can be seen of it from outside, as plain data. -/
structure State where
  /-- The configuration constants (R6); no step writes them (R26). MODEL's placement (assumption 1). -/
  cfg     : Config
  /-- The block's own state (R10). -/
  blk     : Block
  /-- MODEL's field (assumption 3): the caller's inputs of the next steps, soonest first. -/
  inputs  : List StepInput
  /-- MODEL's field (assumption 4): the next answers of `PinRead()`, soonest first (R44). -/
  samples : List Bool
  /-- MODEL's field (assumption 4): how many samples have been taken; it numbers the free values. -/
  drawn   : Nat
  /-- MODEL's field (assumption 5): the ticks R92 and R96 have attached to steps so far (R9). -/
  tick    : Nat
  /-- MODEL's field (assumption 5): the pin actions so far, newest first (R43, R49, R94). -/
  log     : List Event
  /-- The internal request code `prim[2:0]` with the operands beside it (R73; assumption 7). -/
  prim    : PrimReq
  /-- MODEL's field (assumption 7): what the last PRIM request returned (R73). -/
  ret     : PrimResult
deriving DecidableEq, Repr

/-- The machine right after reset: every register as R30 says, the default configuration, nothing queued,
nothing seen (R200; assumption 5 for the model's own fields). -/
def State.reset : State where
  cfg     := Config.default
  blk     := Block.reset
  inputs  := []
  samples := []
  drawn   := 0
  tick    := 0
  log     := []
  prim    := PrimReq.none
  ret     := .none

/-- There is no fault: "All errors are returned, never thrown as unrecoverable process aborts; the decoder
has no fatal error class" (R180). The type has no constructor, so no step can end in one (safe: nothing
stops where the block goes on). -/
inductive Fault where
deriving DecidableEq, Repr

/-- Why a step is refused. -/
inductive Refusal where
  /-- Raised by an arm of `exec` whose instruction has no meaning yet; none is left. Safe: the machine stops. -/
  | notModelled (mnemonic : String)
  /-- Raised by `step` alone, when the configuration breaks the constraints of R7: "`refuse`: such an
  instantiation is not this block" (93_implementation_defined.md U10). Safe: the machine stops. -/
  | invalidConfig
  /-- Raised by `step` alone, on a PRIM request with the reserved code 6 or 7, "never requested" (R73;
  "`refuse`: unreachable", 93_implementation_defined.md U3). Safe: the machine stops. -/
  | reservedPrim
deriving DecidableEq, Repr

end Sys2Proof.Machine
end

