-- ==== Sys2Proof/Machine/Flags.lean ====
section
/-! DEFINITION. The three transient predicates of 10_state.md R17: `reached`, `bit`, `cs_ok`. They are
local values of a micro-operation, not registers. -/

namespace Sys2Proof.Machine

/-- `reached`: "true if the pin equalled the expected state before the timeout was exceeded" (R17). -/
def PulseObservation.isReached : PulseObservation → Bool
  | .reached _ => true
  | .timedOut  => false

/-- The normative bit decision: 1 if the high phase lasted strictly longer, an unsigned comparison (R117). -/
def decideRelative (low high : U16) : Bool := decide (low.toNat < high.toNat)

/-- The optional fixed-threshold decision: 1 if the high phase, in ticks, exceeds `K` (R124; assumption 11). -/
def decideFixed (k : Nat) (high : U16) : Bool := decide (k < high.toNat)

/-- `bit`: the decision under the instance's `BITRULE` (R8, R17). -/
def decideBit (rule : BitRule) (low high : U16) : Bool :=
  match rule with
  | .relative         => decideRelative low high
  | .fixedThreshold k => decideFixed k high

/-- Byte `k` of the frame is `frame[39-8k : 32-8k]` (R16, R65). -/
def frameByte (f : Frame) (k : ByteIdx) : Byte := f.extractLsb' (32 - 8 * k.val) 8

/-- The 8-bit sum of the first four bytes; carries out of bit 7 are dropped (R140). -/
def checkSum (f : Frame) : Byte := frameByte f 0 + frameByte f 1 + frameByte f 2 + frameByte f 3

/-- `cs_ok`: the fifth byte equals the sum of the first four modulo 256 (R17, R140). -/
def csOk (f : Frame) : Bool := checkSum f == frameByte f 4

end Sys2Proof.Machine
end

