-- ==== Sys2Proof/Machine/Operands.lean ====
section
/-! DEFINITION. The fields a micro-operation reads from or writes to the frame and the result registers:
packing (41_handshake_capture.md R118), the payload fields (30_encoding.md R67, R68), the signed reading of a
result register (10_state.md R27) and the binary32 quotient (42_checksum_parser.md R150). -/

namespace Sys2Proof.Machine

/-- Write the bit of capture index `i`: `frame[39 - i]` "and no other bit" (R118). -/
def setFrameBit (f : Frame) (i : BitIdx) (b : Bool) : Frame :=
  let mask : Frame := 1#40 <<< (39 - i.val)
  if b then f ||| mask else f &&& ~~~mask

/-- A byte in tenths: zero-extended to 16 bits, times 10 (R67, R141). -/
def byteTenths (b : Byte) : U16 := b.zeroExtend 16 * 10

/-- Variant11: humidity = `byte[0] * 10`; `byte[1]` takes no part (R67). -/
def humidity11 (f : Frame) : U16 := byteTenths (frameByte f 0)

/-- Variant11: temperature = `byte[2] * 10`, no sign handling; `byte[3]` takes no part (R67). -/
def temperature11 (f : Frame) : U16 := byteTenths (frameByte f 2)

/-- Variant22: humidity = the 16-bit pattern of `byte[0]` and `byte[1]`, big-endian, unchanged (R68, R145). -/
def humidity22 (f : Frame) : U16 := frameByte f 0 ++ frameByte f 1

/-- Variant22: the 16-bit sign-magnitude temperature field (R68). -/
def rawTemperature22 (f : Frame) : U16 := frameByte f 2 ++ frameByte f 3

/-- Sign-magnitude to two's complement: the top bit is the sign, the other fifteen the magnitude
(R142, R143). -/
def ofSignMagnitude (raw : U16) : U16 :=
  if raw.getLsbD 15 then 0 - (raw &&& 0x7FFF) else raw

/-- Variant22: temperature, sign-magnitude "not two's-complement" (R68, R142). -/
def temperature22 (f : Frame) : U16 := ofSignMagnitude (rawTemperature22 f)

/-- The caller's signed reading of a result register (R27). -/
def sext (v : U16) : Int := v.toInt

/-- Round the quotient `n / d` to an integer, to nearest, ties to even (R150). -/
def roundQuotEven (n d : Nat) : Nat :=
  let q := n / d
  let r := n % d
  if d < 2 * r ∨ (2 * r = d ∧ q % 2 = 1) then q + 1 else q

/-- The binary32 magnitude pattern nearest to `m / 10` for `1 ≤ m < 2^16` (R150). With
`p = floor(log2(m * 2^27 / 10))` the value lies in `[2^(p-27), 2^(p-26))`, so its biased exponent is `p + 100`
and its 24-bit significand is `m * 2^27 / 10 / 2^(p-23)` rounded; a significand that rounds up to `2^24`
carries into the exponent by itself. -/
def rn32Mag (m : Nat) : Nat :=
  let x := m * 2 ^ 27
  let p := Nat.log2 (x / 10)
  let sig := roundQuotEven x (10 * 2 ^ (p - 23))
  (p + 100) * 2 ^ 23 + (sig - 2 ^ 23)

/-- `RN32(n / 10)`: the binary32 number nearest to the exact quotient, ties to the even significand;
`RN32(0) = +0.0` (R150). -/
def rn32Tenths (n : Int) : F32 :=
  if n = 0 then 0
  else if n < 0 then BitVec.ofNat 32 (2 ^ 31 + rn32Mag n.natAbs)
  else BitVec.ofNat 32 (rn32Mag n.natAbs)

end Sys2Proof.Machine
end

