-- ==== Sys2Proof/Machine/Ops.lean ====
section
/-! DEFINITION. The shared operations: the pin (20_memory.md R43, R44), the timing primitive
(40_timing_primitive.md R92, R96), raising a failure (60_exceptions.md R180), accepting a command
(43_commands.md R160), entering `Done` (R168), and reset (70_reset_and_hazards.md R200, R201). -/

namespace Sys2Proof.Machine

/-- `phase <- p`. -/
def State.goto (p : Phase) (s : State) : State :=
  { s with blk := { s.blk with phase := p } }

/-- `elapsed <- e`. -/
def State.setElapsed (e : Nat) (s : State) : State :=
  { s with blk := { s.blk with elapsed := BitVec.ofNat 16 e } }

/-- `PinDrive(oe, out)`: both pin registers in one step, an action of the pin trace (R43). -/
def State.pinDrive (oe out : Bool) (s : State) : State :=
  { s with
    blk := { s.blk with pinOe := oe, pinOut := out }
    log := .drive s.tick oe out :: s.log }

/-- `Delay(n)`: exactly `n` ticks pass, no sample, no register changes (R96). -/
def State.pass (n : Nat) (s : State) : State := { s with tick := s.tick + n }

/-- The answers of `PinRead()` as a stream counted from the next one: the queued samples, then the free
values (R44; assumption 4). -/
def State.stream (s : State) (k : Nat) : Bool :=
  s.samples.getD k (Config.freeLevel (s.drawn + k))

/-- The state after the next sample: one answer consumed, and recorded with its instant (R44, R94). -/
def State.afterRead (s : State) : State :=
  { s with
    samples := s.samples.drop 1
    drawn   := s.drawn + 1
    log     := .sample s.tick (s.stream 0) :: s.log }

/-- `PinRead()`: the level at the instant of the call, one fresh answer of the oracle; it always answers and
has no side effect on the block (R44, R47, R95). -/
def State.pinRead (s : State) : Bool × State := (s.stream 0, s.afterRead)

/-- AWAIT's loop (R92): test `elapsed > timeout`, sample, and on a mismatch wait `POLL` ticks and add them.
`e` is the register `elapsed` as an integer. The fuel bounds the iterations; `State.await` gives enough of it
for every valid configuration (R93). -/
def State.awaitLoop (expected : Bool) (timeout : U16) : Nat → Nat → State → PulseObservation × State
  | 0, _, s => (.timedOut, s)
  | fuel + 1, e, s =>
    if timeout.toNat < e then (.timedOut, s)
    else
      let (level, s₁) := s.pinRead
      if level = expected then (.reached (BitVec.ofNat 16 e), s₁)
      else
        let e' := e + s.cfg.poll.toNat
        State.awaitLoop expected timeout fuel e' ((s₁.pass s.cfg.poll.toNat).setElapsed e')

/-- AWAIT `expected`, `timeout` (R92): `elapsed <- 0`, then the loop, at most `N(timeout)` samples and one
last test (R93). -/
def State.await (expected : Bool) (timeout : U16) (s : State) : PulseObservation × State :=
  State.awaitLoop expected timeout (s.cfg.maxSamples timeout + 1) 0 (s.setElapsed 0)

/-- The `status` of a failure (R175). -/
def Failure.status : Failure → Status
  | .timeoutAwaitingResponseLow  => .timeoutAwaitingResponseLow
  | .timeoutAwaitingResponseHigh => .timeoutAwaitingResponseHigh
  | .timeoutAwaitingDataStart    => .timeoutAwaitingDataStart
  | .timeoutAwaitingBit _        => .timeoutAwaitingBit
  | .checksumMismatch            => .checksumMismatch

/-- The `err_index` of a failure: the bit index of a `TimeoutAwaitingBit`, else 0 (R180). -/
def Failure.errIndex : Failure → BitIdx
  | .timeoutAwaitingResponseLow  => 0
  | .timeoutAwaitingResponseHigh => 0
  | .timeoutAwaitingDataStart    => 0
  | .timeoutAwaitingBit index    => index
  | .checksumMismatch            => 0

/-- What `raise` does to the registers: status, index, frame and results, and `Done`; `bit_idx`, `elapsed`,
the durations and the pin keep what they hold (R180). -/
def Block.raise (f : Failure) (b : Block) : Block :=
  { b with
    status := f.status, errIndex := f.errIndex, frame := 0, resultValid := false
    humTenths := 0, tempTenths := 0, humF32 := 0, tempF32 := 0, phase := .done }

/-- `raise F(info)`: the one way a decode ends in a failure (R180). There is no return from it: `Done`
accepts the next command (R184). -/
def State.raise (f : Failure) (s : State) : State := { s with blk := s.blk.raise f }

/-- The sequencer waits for `start` in `Idle` and `Done` (R12, R160). -/
def Block.ready (b : Block) : Bool := b.phase == .idle || b.phase == .done

/-- What ACCEPT does to the registers: latch the command, clear everything of the last decode, go to
`Request`; the pin registers are not touched (R160, R202). -/
def Block.accept (f : Fmt) (v : Variant) (b : Block) : Block :=
  { Block.reset with
    variantQ := v, fmtQ := f, phase := .request, pinOe := b.pinOe, pinOut := b.pinOut }

/-- A command as the block sees it: accepted when the sequencer is ready (R160), ignored while a decode runs
(R165). -/
def State.command (f : Fmt) (v : Variant) (s : State) : State :=
  if s.blk.ready then { s with blk := s.blk.accept f v } else s

/-- Entering `Done` from a success clears `frame` in the same step (R168). -/
def State.enterDone (s : State) : State :=
  { s with blk := { s.blk with frame := 0, phase := .done } }

/-- A waiting micro-operation: one AWAIT whose `reached` is tested (R98); on success `k` continues with the
elapsed ticks, on a timeout the phase's failure is raised. -/
def State.waitPhase (expected : Bool) (timeout : U16) (f : Failure) (k : U16 → State → State) (s : State) :
    State :=
  match s.await expected timeout with
  | (.reached e, t) => k e t
  | (.timedOut, t)  => t.raise f

/-- The Reading is presented: the integer registers and `result_valid`; then `ToFloat` for READ_FLOAT, else
`Done` (R141, R142). -/
def State.present (hum temp : U16) (s : State) : State :=
  let t := { s with blk := { s.blk with humTenths := hum, tempTenths := temp, resultValid := true } }
  match s.blk.fmtQ with
  | .float => t.goto .toFloat
  | .raw   => t.enterDone

/-- The pin actions of a step that happened before the instant `at'`: the events `t` has beyond those of `s`
(newest first), less those at or after it. -/
def State.eventsBefore (s t : State) (at' : Nat) : List Event :=
  (t.log.take (t.log.length - s.log.length)).filter fun e => decide (e.tick < at')

/-- Reset asserted `k` ticks after a step from `s` began that would have ended in `t` (R200, R201;
assumption 6): it comes at the latest when the step ends; the actions before that instant have happened, the
later samples are not taken, every register takes its reset value, and the block stops driving at once
(`PinDrive(0, 1)`). -/
def State.resetDuring (k : Nat) (s t : State) : State :=
  let at' := min (s.tick + k) t.tick
  let kept := s.eventsBefore t at'
  let taken := kept.countP Event.isSample
  { s with
    blk := Block.reset
    samples := s.samples.drop taken
    drawn := s.drawn + taken
    tick := at'
    log := .drive at' false true :: (kept ++ s.log)
    prim := PrimReq.none
    ret := .none }

end Sys2Proof.Machine
end

