-- ==== Sys2Proof/Machine/Capture.lean ====
section
/-! DEFINITION. The six micro-operations that talk to the pin: REQUEST, RESP_LOW, RESP_HIGH, DATA_READY,
BIT_HI, BIT_LO (41_handshake_capture.md R111 to R119). -/

namespace Sys2Proof.Machine

/-- REQUEST: drive low, hold, drive high, release delay, stop driving (R111). -/
def execRequest (s : State) : Host.Outcome State Fault Refusal :=
  let s₁ := (s.pinDrive true false).pass s.cfg.tHoldLow.toNat
  let s₂ := (s₁.pinDrive true true).pass s.cfg.tReleaseHigh.toNat
  .next ((s₂.pinDrive false true).goto .responseLow)

/-- RESP_LOW: wait for low (R112). -/
def execRespLow (s : State) : Host.Outcome State Fault Refusal :=
  .next (s.waitPhase false s.cfg.tRespLow .timeoutAwaitingResponseLow fun _ t => t.goto .responseHigh)

/-- RESP_HIGH: wait for high (R113). -/
def execRespHigh (s : State) : Host.Outcome State Fault Refusal :=
  .next (s.waitPhase true s.cfg.tRespHigh .timeoutAwaitingResponseHigh fun _ t => t.goto .dataReady)

/-- DATA_READY: wait for low, then the first bit (R114). -/
def execDataReady (s : State) : Host.Outcome State Fault Refusal :=
  .next (s.waitPhase false s.cfg.tDataStart .timeoutAwaitingDataStart fun _ t =>
    { t with blk := { t.blk with bitIdx := 0, phase := .bitHigh } })

/-- BIT_HI: wait for high; the elapsed ticks are the low phase's duration (R115). -/
def execBitHi (s : State) : Host.Outcome State Fault Refusal :=
  .next (s.waitPhase true s.cfg.tBitHigh (.timeoutAwaitingBit s.blk.bitIdx) fun e t =>
    { t with blk := { t.blk with lowDur := e, phase := .bitLow } })

/-- What BIT_LO does once the pin is low: the duration, the decided bit in its place, and the loop test
(R116, R118, R119). `bit_idx` stays 39 after the last bit. -/
def Block.bitDone (rule : BitRule) (e : U16) (b : Block) : Block :=
  let frame := setFrameBit b.frame b.bitIdx (decideBit rule b.lowDur e)
  if h : b.bitIdx.val < 39 then
    { b with highDur := e, frame := frame, bitIdx := ⟨b.bitIdx.val + 1, by omega⟩, phase := .bitHigh }
  else
    { b with highDur := e, frame := frame, phase := .check }

/-- BIT_LO: wait for low; decide and pack the bit (R116). -/
def execBitLo (s : State) : Host.Outcome State Fault Refusal :=
  .next (s.waitPhase false s.cfg.tBitLow (.timeoutAwaitingBit s.blk.bitIdx) fun e t =>
    { t with blk := t.blk.bitDone t.cfg.bitRule e })

end Sys2Proof.Machine
end

