-- ==== Sys2Proof/Machine/Command.lean ====
section
/-! DEFINITION. The four public commands (43_commands.md R160 to R165). A command is its accepting step; the
sequence it starts (41_handshake_capture.md R110) is run by the following steps. -/

namespace Sys2Proof.Machine

/-- READ_RAW.V11: ACCEPT(00) (R160, R161); ignored while busy (R165). -/
def execReadRawV11 (s : State) : Host.Outcome State Fault Refusal := .next (s.command .raw .v11)

/-- READ_RAW.V22: ACCEPT(01) (R160, R162); ignored while busy (R165). -/
def execReadRawV22 (s : State) : Host.Outcome State Fault Refusal := .next (s.command .raw .v22)

/-- READ_FLOAT.V11: ACCEPT(10) (R160, R163); ignored while busy (R165). -/
def execReadFloatV11 (s : State) : Host.Outcome State Fault Refusal := .next (s.command .float .v11)

/-- READ_FLOAT.V22: ACCEPT(11) (R160, R164); ignored while busy (R165). -/
def execReadFloatV22 (s : State) : Host.Outcome State Fault Refusal := .next (s.command .float .v22)

end Sys2Proof.Machine
end

