-- ==== Sys2Proof/Machine/Payload.lean ====
section
/-! DEFINITION. The four micro-operations on the captured frame: CHECK, PARSE11, PARSE22, TOFLOAT
(42_checksum_parser.md R140 to R151). They take no sample and no tick. -/

namespace Sys2Proof.Machine

/-- CHECK: compare the checksum; a mismatch raises `ChecksumMismatch` (R140). -/
def execCheck (s : State) : Host.Outcome State Fault Refusal :=
  .next (if csOk s.blk.frame then s.goto .parse else s.raise .checksumMismatch)

/-- PARSE11: both fields times 10, no sign handling (R141). -/
def execParse11 (s : State) : Host.Outcome State Fault Refusal :=
  .next (s.present (humidity11 s.blk.frame) (temperature11 s.blk.frame))

/-- PARSE22: 16-bit fields in tenths, sign-magnitude temperature (R142). -/
def execParse22 (s : State) : Host.Outcome State Fault Refusal :=
  .next (s.present (humidity22 s.blk.frame) (temperature22 s.blk.frame))

/-- TOFLOAT: both integer registers, read as i16, divided by ten in binary32 (R150); it reads nothing else
(R151). -/
def execToFloat (s : State) : Host.Outcome State Fault Refusal :=
  .next (State.enterDone { s with blk := { s.blk with
    humF32 := rn32Tenths (sext s.blk.humTenths), tempF32 := rn32Tenths (sext s.blk.tempTenths) } })

end Sys2Proof.Machine
end

