-- ==== Sys2Proof/Machine/Primitive.lean ====
section
/-! DEFINITION. The five leaf primitives as PRIM requests (40_timing_primitive.md R90 to R96, 30_encoding.md
R73). What a primitive returns goes to `ret` (assumption 7). -/

namespace Sys2Proof.Machine

/-- SETDIR `dir`: `pin_oe <- dir`; `pin_out` keeps its value (R90). -/
def execSetdir (dir : Bool) (s : State) : Host.Outcome State Fault Refusal :=
  .next { s.pinDrive dir s.blk.pinOut with ret := .none }

/-- SETLVL `level`: `pin_out <- level`; `pin_oe` keeps its value (R91). -/
def execSetlvl (level : Bool) (s : State) : Host.Outcome State Fault Refusal :=
  .next { s.pinDrive s.blk.pinOe level with ret := .none }

/-- GETLVL: returns `PinRead()` (R95). -/
def execGetlvl (s : State) : Host.Outcome State Fault Refusal :=
  .next { s.pinRead.2 with ret := .level s.pinRead.1 }

/-- DELAY `n`: exactly `n` ticks pass (R96). -/
def execDelay (n : U16) (s : State) : Host.Outcome State Fault Refusal :=
  .next { s.pass n.toNat with ret := .none }

/-- AWAIT `expected`, `timeout`: the timing primitive; it raises nothing (R92, R98). -/
def execAwait (expected : Bool) (timeout : U16) (s : State) : Host.Outcome State Fault Refusal :=
  .next { (s.await expected timeout).2 with ret := .pulse (s.await expected timeout).1 }

end Sys2Proof.Machine
end

