-- ==== Sys2Proof/Machine/Dispatch.lean ====
section
/-! DEFINITION. The dispatch of an instruction to its meaning: one arm per constructor of `Instr`. -/

namespace Sys2Proof.Machine

def exec (i : Instr) (s : State) : Host.Outcome State Fault Refusal :=
  match i with
  -- 43_commands.md
  | .readRawV11 => Sys2Proof.Machine.execReadRawV11 s
  | .readRawV22 => Sys2Proof.Machine.execReadRawV22 s
  | .readFloatV11 => Sys2Proof.Machine.execReadFloatV11 s
  | .readFloatV22 => Sys2Proof.Machine.execReadFloatV22 s
  -- 41_handshake_capture.md
  | .request => Sys2Proof.Machine.execRequest s
  | .respLow => Sys2Proof.Machine.execRespLow s
  | .respHigh => Sys2Proof.Machine.execRespHigh s
  | .dataReady => Sys2Proof.Machine.execDataReady s
  | .bitHi => Sys2Proof.Machine.execBitHi s
  | .bitLo => Sys2Proof.Machine.execBitLo s
  -- 42_checksum_parser.md
  | .check => Sys2Proof.Machine.execCheck s
  | .parse11 => Sys2Proof.Machine.execParse11 s
  | .parse22 => Sys2Proof.Machine.execParse22 s
  | .toFloat => Sys2Proof.Machine.execToFloat s
  -- 40_timing_primitive.md
  | .setdir dir => Sys2Proof.Machine.execSetdir dir s
  | .setlvl level => Sys2Proof.Machine.execSetlvl level s
  | .getlvl => Sys2Proof.Machine.execGetlvl s
  | .delay n => Sys2Proof.Machine.execDelay n s
  | .await expected timeout => Sys2Proof.Machine.execAwait expected timeout s

end Sys2Proof.Machine
end

