-- ==== Sys2Proof/Decode.lean ====
section
/-! DEFINITION. The decoder of the three formats, total on every code word and rejecting by name, and the
encoder, both from 30_encoding.md R61 to R64, R72, R73 and section 10. -/

namespace Sys2Proof

/-- The 4-bit code of a phase (R64). -/
def Phase.code : Phase → BitVec 4
  | .idle         => 0
  | .request      => 1
  | .responseLow  => 2
  | .responseHigh => 3
  | .dataReady    => 4
  | .bitHigh      => 5
  | .bitLow       => 6
  | .check        => 7
  | .parse        => 8
  | .toFloat      => 9
  | .done         => 10

/-- The phase a 4-bit code names; codes 11 to 15 name none (R72). -/
def Phase.ofCode (code : BitVec 4) : Option Phase :=
  match code.toNat with
  | 0  => some .idle
  | 1  => some .request
  | 2  => some .responseLow
  | 3  => some .responseHigh
  | 4  => some .dataReady
  | 5  => some .bitHigh
  | 6  => some .bitLow
  | 7  => some .check
  | 8  => some .parse
  | 9  => some .toFloat
  | 10 => some .done
  | _  => none

/-- The 1-bit code of a variant (R62). -/
def Variant.code : Variant → Bool
  | .v11 => false
  | .v22 => true

/-- The variant a 1-bit code names (R62). -/
def Variant.ofCode : Bool → Variant
  | false => .v11
  | true  => .v22

/-- The 1-bit code of a format (R63). -/
def Fmt.code : Fmt → Bool
  | .raw   => false
  | .float => true

/-- Why a code word is no instruction. -/
inductive DecodeError where
  /-- PRIM code 0: no primitive requested (R73). -/
  | noRequest
  /-- PRIM codes 6 and 7 (R72). -/
  | reservedPrim
  /-- Phase `Idle` or `Done`: no micro-operation runs (R12). -/
  | noMicroOp
  /-- PHASE codes 11 to 15 (R72). -/
  | reservedPhase
deriving DecidableEq, Repr

/-- The decoder's answer: an instruction, or a rejection by name. -/
inductive Decoded where
  | instr    (i : Instr)
  | rejected (why : DecodeError)
deriving DecidableEq, Repr

/-- CMD: `cmd[1] = fmt`, `cmd[0] = variant`; every value is legal (R61). -/
def decodeCmd (bits : BitVec 2) : Instr :=
  match bits.getLsbD 1, bits.getLsbD 0 with
  | false, false => .readRawV11
  | false, true  => .readRawV22
  | true,  false => .readFloatV11
  | true,  true  => .readFloatV22

/-- The micro-operation of a phase; `variant_q` takes part for `Parse` only (R12, R64). -/
def decodeMicroOp (v : Variant) : Phase → Decoded
  | .idle         => .rejected .noMicroOp
  | .request      => .instr .request
  | .responseLow  => .instr .respLow
  | .responseHigh => .instr .respHigh
  | .dataReady    => .instr .dataReady
  | .bitHigh      => .instr .bitHi
  | .bitLow       => .instr .bitLo
  | .check        => .instr .check
  | .parse        => match v with
                     | .v11 => .instr .parse11
                     | .v22 => .instr .parse22
  | .toFloat      => .instr .toFloat
  | .done         => .rejected .noMicroOp

/-- PHASE: bit 4 is `variant_q`, bits 3:0 are `phase[3:0]` (30_encoding.md section 10). -/
def decodePhase (bits : BitVec 5) : Decoded :=
  match Phase.ofCode (bits.extractLsb' 0 4) with
  | some p => decodeMicroOp (Variant.ofCode (bits.getLsbD 4)) p
  | none   => .rejected .reservedPhase

/-- PRIM: the request code selects the primitive; an operand lane the primitive has no use for is not
looked at (R73). -/
def decodePrim (r : PrimReq) : Decoded :=
  match r.code.toNat with
  | 0 => .rejected .noRequest
  | 1 => .instr (.setdir r.flag)
  | 2 => .instr (.setlvl r.flag)
  | 3 => .instr .getlvl
  | 4 => .instr (.delay r.ticks)
  | 5 => .instr (.await r.flag r.ticks)
  | _ => .rejected .reservedPrim

/-- The decoder, total on code words. -/
def decode : CodeWord → Decoded
  | .cmd bits   => .instr (decodeCmd bits)
  | .phase bits => decodePhase bits
  | .prim req   => decodePrim req

/-- A PHASE word from its two parts. -/
def phaseWord (v : Variant) (code : BitVec 4) : CodeWord :=
  .phase (BitVec.ofBool v.code ++ code)

/-- A CMD word from its two fields (R61). -/
def cmdBits (f : Fmt) (v : Variant) : BitVec 2 :=
  BitVec.ofBool f.code ++ BitVec.ofBool v.code

/-- The encoder. `v` is the letter `v` of a PHASE row's encoding, "meaning either value"
(30_encoding.md section 10); PARSE11 and PARSE22 fix it, and the other formats have no such bit. -/
def encode (v : Variant) : Instr → CodeWord
  | .readRawV11     => .cmd (cmdBits .raw .v11)
  | .readRawV22     => .cmd (cmdBits .raw .v22)
  | .readFloatV11   => .cmd (cmdBits .float .v11)
  | .readFloatV22   => .cmd (cmdBits .float .v22)
  | .request        => phaseWord v 1
  | .respLow        => phaseWord v 2
  | .respHigh       => phaseWord v 3
  | .dataReady      => phaseWord v 4
  | .bitHi          => phaseWord v 5
  | .bitLo          => phaseWord v 6
  | .check          => phaseWord v 7
  | .parse11        => phaseWord .v11 8
  | .parse22        => phaseWord .v22 8
  | .toFloat        => phaseWord v 9
  | .setdir dir     => .prim { code := 1, flag := dir, ticks := 0 }
  | .setlvl level   => .prim { code := 2, flag := level, ticks := 0 }
  | .getlvl         => .prim { code := 3, flag := false, ticks := 0 }
  | .delay n        => .prim { code := 4, flag := false, ticks := n }
  | .await e n      => .prim { code := 5, flag := e, ticks := n }

/-- The code word a table row's bits stand for (assumption 13). The three formats are separate code spaces
whose words collide as numbers; the width of the row tells them apart (CMD 2, PRIM 3, PHASE 5 bits). A
width that is a row's rounded up to whole bytes does not: there the word is read as PHASE, and 0, which
has no PHASE row, as CMD `00`. Bits above the row's are refused. A PRIM row's operands are zero. -/
def tableWord (nbits w : Nat) : Option CodeWord :=
  match nbits with
  | 2 => if w < 4 then some (.cmd (BitVec.ofNat 2 w)) else none
  | 3 => if w < 8 then some (.prim { code := BitVec.ofNat 3 w, flag := false, ticks := 0 }) else none
  | 5 => if w < 32 then some (.phase (BitVec.ofNat 5 w)) else none
  | _ => if w = 0 then some (.cmd 0) else if w < 32 then some (.phase (BitVec.ofNat 5 w)) else none

/-- The instruction a decoder's answer holds. -/
def Decoded.instr? : Decoded → Option Instr
  | .instr i    => some i
  | .rejected _ => none

/-- The instruction the decoder reads from a row's bits, numbered as spec/opcode_table.json numbers them. -/
def decodeTableWord (nbits w : Nat) : Option Instr :=
  (tableWord nbits w).bind fun cw => (decode cw).instr?

end Sys2Proof
end

