-- ==== Sys2Proof/Machine/Fetch.lean ====
section
/-! DEFINITION. Selecting the instruction of a step. The block fetches nothing from memory (20_memory.md
R40, R51): the `phase` register and `variant_q` select a micro-operation (R12), `start` and `cmd` a command
(R160), an outstanding PRIM request a primitive (R73). -/

namespace Sys2Proof.Machine

/-- The inputs of the next step; a caller with nothing queued asks for nothing (assumption 3). -/
def State.nextInput (s : State) : StepInput := s.inputs.headD StepInput.quiet

/-- The state an instruction runs in: the step's inputs and the PRIM request have been taken. -/
def State.latched (s : State) : State := { s with inputs := s.inputs.drop 1, prim := PrimReq.none }

/-- The code word the step runs, if any: an outstanding PRIM request; in `Idle` and `Done` the command on
`cmd` when `start = 1` (R160), else nothing (R12); in every other phase the micro-operation of `phase` and
`variant_q`, whatever `start` and `cmd` are (R165). -/
def State.fetchWord (s : State) : Option CodeWord :=
  if s.prim.code ≠ 0 then some (.prim s.prim)
  else if s.blk.ready then
    if s.nextInput.start then some (.cmd s.nextInput.cmd) else none
  else some (phaseWord s.blk.variantQ s.blk.phase.code)

/-- Reset during a step from `s` wins over whatever the step would have done (R200, R201). -/
def State.underReset (s : State) (rst : Option Nat) (o : Host.Outcome State Fault Refusal) :
    Host.Outcome State Fault Refusal :=
  match rst, o with
  | none,   o       => o
  | some k, .next t => .next (s.resetDuring k t)
  | some k, _       => .next (s.resetDuring k s)

/-- Place a code word where the next step finds it (assumption 17): a command on the ports of a ready
sequencer, a micro-operation in `phase` and `variant_q`, a primitive in the request lines. The next step's
inputs are placed too, so that no reset and no other command comes between. -/
def State.placeWord (s : State) : CodeWord → State
  | .cmd bits =>
    { s with
      blk := { s.blk with phase := if s.blk.ready then s.blk.phase else .idle }
      inputs := { rst := none, start := true, cmd := bits } :: s.inputs
      prim := PrimReq.none }
  | .phase bits =>
    { s with
      blk := { s.blk with
        phase := (Phase.ofCode (bits.extractLsb' 0 4)).getD s.blk.phase
        variantQ := Variant.ofCode (bits.getLsbD 4) }
      inputs := StepInput.quiet :: s.inputs
      prim := PrimReq.none }
  | .prim req => { s with inputs := StepInput.quiet :: s.inputs, prim := req }

end Sys2Proof.Machine
end

