-- ==== Sys2Proof/Machine/Step.lean ====
section
/-! DEFINITION. One step of the machine: one micro-operation, one accepted command, one primitive, or one
step of waiting (assumption 2). -/

namespace Sys2Proof.Machine

/-- One step (R10, R12, R160, R200). An instance outside the constraints of R7 is not this block
(93_implementation_defined.md U10). -/
def step (s : State) : Host.Outcome State Fault Refusal :=
  if s.cfg.valid then
    s.latched.underReset s.nextInput.rst
      (match s.fetchWord with
      | none => .next s.latched
      | some w => match decode w with
        | .instr i    => exec i s.latched
        | .rejected _ => .refused .reservedPrim)
  else .refused .invalidConfig

/-- The state with a table row's word where `step` selects its next instruction (assumption 17); unchanged
when the bits are no row's. -/
def State.withFetchWord (s : State) (nbits w : Nat) : State :=
  match tableWord nbits w with
  | some cw => s.placeWord cw
  | none    => s

end Sys2Proof.Machine
end

