-- ==== Sys2Proof/Machine/Ports.lean ====
section
/-! DEFINITION. What the caller sees: the outputs of 43_commands.md section 1 that are functions of the
registers (10_state.md R19, 30_encoding.md R69) and the outcome as a sum type (43_commands.md R166). -/

namespace Sys2Proof.Machine

/-- `busy = (phase != Idle and phase != Done)` (R19). -/
def Block.busy (b : Block) : Bool := b.phase != .idle && b.phase != .done

/-- `done = (phase == Done)` (R19). -/
def Block.done (b : Block) : Bool := b.phase == .done

/-- The 3-bit code on the `status` port (R69). -/
def Status.code : Status → BitVec 3
  | .ok                          => 0
  | .timeoutAwaitingResponseLow  => 1
  | .timeoutAwaitingResponseHigh => 2
  | .timeoutAwaitingDataStart    => 3
  | .timeoutAwaitingBit          => 4
  | .checksumMismatch            => 5

/-- The 6-bit code on the `err_index` port (R70). -/
def Block.errIndexCode (b : Block) : BitVec 6 := BitVec.ofNat 6 b.errIndex.val

/-- The level the block drives on the wire: `pin_out` while `pin_oe = 1`, nothing while `pin_oe = 0` (R43). -/
def Block.driven (b : Block) : Option Bool := if b.pinOe then some b.pinOut else none

/-- A Reading: the integers in tenths, or the binary32 patterns (R166). -/
inductive Reading where
  | tenths (hum temp : Int)
  | floats (hum temp : F32)
deriving DecidableEq, Repr

/-- How a decode ended (R166). -/
inductive DecodeOutcome where
  | ok  (r : Reading)
  | err (f : Failure)
deriving DecidableEq, Repr

/-- The outcome the caller reads, present while `done = 1`: "a model should represent the outcome as a sum
type so that the zeros cannot be read at all" (R166). -/
def Block.outcome (b : Block) : Option DecodeOutcome :=
  if b.done then
    some (match b.status with
      | .ok => match b.fmtQ with
        | .raw   => .ok (.tenths (sext b.humTenths) (sext b.tempTenths))
        | .float => .ok (.floats b.humF32 b.tempF32)
      | .timeoutAwaitingResponseLow  => .err .timeoutAwaitingResponseLow
      | .timeoutAwaitingResponseHigh => .err .timeoutAwaitingResponseHigh
      | .timeoutAwaitingDataStart    => .err .timeoutAwaitingDataStart
      | .timeoutAwaitingBit          => .err (.timeoutAwaitingBit b.errIndex)
      | .checksumMismatch            => .err .checksumMismatch)
  else none

/-- The pin trace: the `PinDrive` calls with their instants, oldest first (R43). -/
def State.pinTrace (s : State) : List (Nat × Bool × Bool) :=
  s.log.reverse.filterMap fun
    | .drive t oe out => some (t, oe, out)
    | .sample _ _     => none

end Sys2Proof.Machine
end

