-- ==== Sys2Proof/Machine/Reference.lean ====
section
/-! DEFINITION. The decode as functions of the sample stream, which the spec gives beside the small-step
rules: `take` and `capture` (41_handshake_capture.md R120), `parse` (42_checksum_parser.md R146), `read_raw`
and `read_float` (43_commands.md R167), and the run-length notation of streams (30_encoding.md R74). "The
small-step rules ... and this function describe the same behaviour" (R120) is a claim, not a definition. -/

namespace Sys2Proof.Machine

/-- A sample stream `σ`: the successive answers of `PinRead()` (R120). -/
abbrev Stream := Nat → Bool

/-- How many of the next `n` samples from `pos` come before the first one equal to `expected`, if one of
them is. -/
def firstMatch (σ : Stream) (expected : Bool) : Nat → Nat → Option Nat
  | 0, _ => none
  | n + 1, pos => if σ pos = expected then some 0 else (firstMatch σ expected n (pos + 1)).map (· + 1)

/-- What one wait of the capture gives: the elapsed ticks when reached, and the position after the consumed
samples. -/
structure Taken where
  elapsed : Option Nat
  pos     : Nat
deriving DecidableEq, Repr

/-- `take(σ, expected, T)`: AWAIT on a stream, in the closed form of R93: with the first match at index `k`
among the first `N(T)` samples it gives `k * POLL` after `k + 1` samples, else it fails after `N(T)`. -/
def take (c : Config) (σ : Stream) (pos : Nat) (expected : Bool) (timeout : U16) : Taken :=
  match firstMatch σ expected (c.maxSamples timeout) pos with
  | some k => { elapsed := some (k * c.poll.toNat), pos := pos + k + 1 }
  | none   => { elapsed := none, pos := pos + c.maxSamples timeout }

/-- The end of a capture: a frame or a failure, and the position in the stream. -/
structure Captured where
  result : Except Failure Frame
  pos    : Nat

/-- The bit decision on durations as integers (R117, R124). -/
def decideDur (rule : BitRule) (lo hi : Nat) : Bool :=
  match rule with
  | .relative         => decide (lo < hi)
  | .fixedThreshold k => decide (k < hi)

/-- The bits `40 - n` to 39 of a capture (R120). -/
def captureBits (c : Config) (σ : Stream) : Nat → Nat → Frame → Captured
  | 0, pos, f => { result := .ok f, pos := pos }
  | n + 1, pos, f =>
    let i : BitIdx := ⟨39 - n, by omega⟩
    match take c σ pos true c.tBitHigh with
    | { elapsed := none, pos := p } => { result := .error (.timeoutAwaitingBit i), pos := p }
    | { elapsed := some lo, pos := p } =>
      match take c σ p false c.tBitLow with
      | { elapsed := none, pos := p' } => { result := .error (.timeoutAwaitingBit i), pos := p' }
      | { elapsed := some hi, pos := p' } =>
        captureBits c σ n p' (setFrameBit f i (decideDur c.bitRule lo hi))

/-- `capture(σ)` (R120), from position 0. -/
def capture (c : Config) (σ : Stream) : Captured :=
  match take c σ 0 false c.tRespLow with
  | { elapsed := none, pos := p } => { result := .error .timeoutAwaitingResponseLow, pos := p }
  | { elapsed := some _, pos := p } =>
    match take c σ p true c.tRespHigh with
    | { elapsed := none, pos := p } => { result := .error .timeoutAwaitingResponseHigh, pos := p }
    | { elapsed := some _, pos := p } =>
      match take c σ p false c.tDataStart with
      | { elapsed := none, pos := p } => { result := .error .timeoutAwaitingDataStart, pos := p }
      | { elapsed := some _, pos := p } => captureBits c σ 40 p 0

/-- `parse(variant, [b0, b1, b2, b3, b4])` on integers (R146): humidity and temperature in tenths. -/
def parse (v : Variant) (b0 b1 b2 b3 b4 : Nat) : Except Failure (Int × Int) :=
  if (b0 + b1 + b2 + b3) % 256 ≠ b4 then .error .checksumMismatch
  else match v with
    | .v11 => .ok (b0 * 10, b2 * 10)
    | .v22 =>
      let raw := b2 * 256 + b3
      let t : Int := if 32768 ≤ raw then -((raw % 32768 : Nat) : Int) else raw
      let h := b0 * 256 + b1
      .ok (if 32768 ≤ h then (h : Int) - 65536 else h, t)

/-- `parse` on the bytes of a captured frame (R167). -/
def parseFrame (v : Variant) (f : Frame) : Except Failure (Int × Int) :=
  parse v (frameByte f 0).toNat (frameByte f 1).toNat (frameByte f 2).toNat (frameByte f 3).toNat
    (frameByte f 4).toNat

/-- `read_raw(variant, σ)` (R167). -/
def readRaw (c : Config) (v : Variant) (σ : Stream) : Except Failure (Int × Int) :=
  match (capture c σ).result with
  | .error e => .error e
  | .ok f    => parseFrame v f

/-- `read_float(variant, σ)` (R167). -/
def readFloat (c : Config) (v : Variant) (σ : Stream) : Except Failure (F32 × F32) :=
  match readRaw c v σ with
  | .error e   => .error e
  | .ok (h, t) => .ok (rn32Tenths h, rn32Tenths t)

/-- The outcome of a command as the functions give it (R166, R167). -/
def readOutcome (c : Config) (f : Fmt) (v : Variant) (σ : Stream) : DecodeOutcome :=
  match f with
  | .raw => match readRaw c v σ with
    | .ok (h, t) => .ok (.tenths h t)
    | .error e   => .err e
  | .float => match readFloat c v σ with
    | .ok (h, t) => .ok (.floats h t)
    | .error e   => .err e

/-- The stream notation of R74: a list of runs, `H×n` as `(true, n)` and `L×n` as `(false, n)`. -/
def expandRuns (runs : List (Bool × Nat)) : List Bool :=
  runs.flatMap fun r => List.replicate r.2 r.1

end Sys2Proof.Machine
end

