-- ==== Sys2Proof/Safety.lean ====
section
/-! DEFINITION. What claims about the machine are stated with: running a decode to `Done`, the quiet caller,
the invariant of the block between steps, and bounds on ticks and samples. -/

namespace Sys2Proof.Machine

/-- At most `n` steps, ending early in `Done` (70_reset_and_hazards.md R210: a decode ends "at the first step in
which `phase = Done`"). -/
def runToDone : Nat → State → Host.Outcome State Fault Refusal
  | 0, s => .next s
  | n + 1, s =>
    if s.blk.phase = .done then .next s
    else match step s with
      | .next t    => runToDone n t
      | .fault r   => .fault r
      | .refused r => .refused r

/-- The command of a format and a variant (R61). -/
def commandOf : Fmt → Variant → Instr
  | .raw,   .v11 => .readRawV11
  | .raw,   .v22 => .readRawV22
  | .float, .v11 => .readFloatV11
  | .float, .v22 => .readFloatV22

/-- The next step accepts the command `f`, `v`: a valid instance, ready, no primitive outstanding, `start = 1`
and `cmd` that command (R160). -/
structure State.Accepting (s : State) (f : Fmt) (v : Variant) : Prop where
  cfg   : s.cfg.valid = true
  prim  : s.prim = PrimReq.none
  ready : s.blk.ready = true
  start : s.nextInput.start = true
  cmd   : s.nextInput.cmd = cmdBits f v

/-- Reset is not asserted in any of the queued steps. -/
def State.noReset (s : State) : Prop := ∀ inp ∈ s.inputs, inp.rst = none

/-- No integer or float result is held. -/
def Block.noReading (b : Block) : Prop :=
  b.resultValid = false ∧ b.humTenths = 0 ∧ b.tempTenths = 0 ∧ b.humF32 = 0 ∧ b.tempF32 = 0

/-- The bits of `frame` from capture index `i` on are still 0 (R118). -/
def Block.uncaptured (b : Block) (i : Nat) : Prop :=
  ∀ j, i ≤ j → j < 40 → b.frame.getLsbD (39 - j) = false

/-- What holds of the block's registers between two steps. -/
structure Block.Inv (b : Block) : Prop where
  /-- Between steps the pin is in input mode with `pin_out = 1` (R18, R111, R168). -/
  pin : b.pinOe = false ∧ b.pinOut = true
  /-- Outside a bit timeout `err_index` is 0 (R21). -/
  index : b.status ≠ .timeoutAwaitingBit → b.errIndex = 0
  /-- A failure is reported in `Done` only (R180). -/
  failed : b.status ≠ .ok → b.phase = .done
  /-- The Reading is present exactly in a successful `Done`, and while TOFLOAT is still to run (R22, R141,
  R142; assumption 9). -/
  valid : b.resultValid = true ↔ (b.status = .ok ∧ (b.phase = .done ∨ b.phase = .toFloat))
  /-- Without a Reading every result register is 0 (R23, R24, R25, R180). -/
  results : b.resultValid = false → b.noReading
  /-- The float registers are written by TOFLOAT only, so only for READ_FLOAT and only at the end (R25). -/
  floats : (b.fmtQ = .raw ∨ b.phase ≠ .done) → b.humF32 = 0 ∧ b.tempF32 = 0
  /-- TOFLOAT runs for READ_FLOAT only (R150). -/
  toFloat : b.phase = .toFloat → b.fmtQ = .float
  /-- `frame` is 0 in `Idle` and `Done` (R30, R168). -/
  cleared : b.ready = true → b.frame = 0
  /-- Before and during the capture, the bits not yet captured are 0 (R118, R202). -/
  early : (b.phase = .request ∨ b.phase = .responseLow ∨ b.phase = .responseHigh ∨ b.phase = .dataReady) →
    b.frame = 0
  capturing : (b.phase = .bitHigh ∨ b.phase = .bitLow) → b.uncaptured b.bitIdx.val
  /-- A frame whose checksum fails never reaches a parser (R140). -/
  checked : b.phase = .parse → csOk b.frame = true

/-- The pin actions are in program order: newest first, each at or before the next newer one, none after the
present tick (R49). -/
def logOrdered : List Event → Nat → Prop
  | [], _ => True
  | e :: es, now => e.tick ≤ now ∧ logOrdered es e.tick

/-- The invariant of the machine between two steps. -/
structure State.Inv (s : State) : Prop where
  /-- The configuration meets R7. -/
  cfg : s.cfg.valid = true
  /-- No PRIM request is outstanding: primitives are "never issued from outside the block" (R60). -/
  prim : s.prim = PrimReq.none
  /-- The registers are consistent. -/
  blk : s.blk.Inv
  /-- The pin actions are in order. -/
  log : logOrdered s.log s.tick

/-- The samples of a wait with their instants, newest first: sample `j` is taken at `begin + j * POLL` (R94). -/
def sampleEvents (σ : Stream) (begin poll : Nat) : Nat → List Event
  | 0     => []
  | n + 1 => .sample (begin + n * poll) (σ n) :: sampleEvents σ begin poll n

/-- The state after a wait that took `n` samples and `ticks` ticks: nothing but `elapsed`, the samples and the
time has moved (R92, R93, R98). -/
def State.waited (s : State) (n ticks : Nat) : State :=
  { s with
    blk     := { s.blk with elapsed := BitVec.ofNat 16 ticks }
    samples := s.samples.drop n
    drawn   := s.drawn + n
    tick    := s.tick + ticks
    log     := sampleEvents s.stream s.tick s.cfg.poll.toNat n ++ s.log }

/-- Sample `k` from now is the first of the next `n` that equals `expected`. -/
def State.firstAt (s : State) (expected : Bool) (n k : Nat) : Prop :=
  k < n ∧ s.stream k = expected ∧ ∀ j, j < k → s.stream j ≠ expected

/-- None of the next `n` samples equals `expected`. -/
def State.never (s : State) (expected : Bool) (n : Nat) : Prop := ∀ j, j < n → s.stream j ≠ expected

/-- Instruction `i` waits for `expected` up to `timeout`: if sample `k` of the first `N(timeout)` is the first
match, it completes in `ok` of the elapsed ticks `k * POLL` and the state after `k + 1` samples; if none
matches, it ends in `fail` of the state after `N(timeout)` samples and `N(timeout) * POLL` ticks (R93). -/
def Waits (s : State) (i : Instr) (expected : Bool) (timeout : U16) (ok : U16 → State → State)
    (fail : State → State) : Prop :=
  (∀ k, s.firstAt expected (s.cfg.maxSamples timeout) k →
    exec i s = .next (ok (BitVec.ofNat 16 (k * s.cfg.poll.toNat))
      (s.waited (k + 1) (k * s.cfg.poll.toNat)))) ∧
  (s.never expected (s.cfg.maxSamples timeout) →
    exec i s = .next (fail (s.waited (s.cfg.maxSamples timeout)
      (s.cfg.maxSamples timeout * s.cfg.poll.toNat))))

/-- The value of a finite binary32 pattern (R71): sign, exponent biased by 127, 23 fraction bits; an exponent
field of 0 is a subnormal. -/
def f32Value (w : F32) : Rat :=
  let e := (w.extractLsb' 23 8).toNat
  let m := (w.extractLsb' 0 23).toNat
  let sig : Nat := if e = 0 then m else 2 ^ 23 + m
  let mag : Rat := (sig : Rat) * (2 : Rat) ^ (((if e = 0 then 1 else e : Nat) : Int) - 150)
  if w.getLsbD 31 then -mag else mag

/-- The pattern is a finite number: no infinity and no NaN. -/
def f32Finite (w : F32) : Bool := (w.extractLsb' 23 8).toNat != 255

end Sys2Proof.Machine

namespace Sys2Proof

/-- The most samples a decode takes: the bound of R125. -/
def Config.maxDecodeSamples (c : Config) : Nat :=
  c.maxSamples c.tRespLow + c.maxSamples c.tRespHigh + c.maxSamples c.tDataStart +
    40 * (c.maxSamples c.tBitHigh + c.maxSamples c.tBitLow)

/-- Ticks REQUEST takes (R111). -/
def Config.requestTicks (c : Config) : Nat := c.tHoldLow.toNat + c.tReleaseHigh.toNat

end Sys2Proof
end

