-- ==== Sys2Proof/WellFormed.lean ====
section
/-! DEFINITION. Well-formedness of an instruction for a configuration. The operand types leave one check:
the timeout of an AWAIT must meet the constraint of 00_scope.md R7, on which the 16-bit width of `elapsed`
relies (10_state.md R14). -/

namespace Sys2Proof

/-- An instruction whose operands this instance of the block can request. Every value of the other
operands is legal: CMD has no reserved value (R61) and `dir`, `level`, `expected` are one bit (R73). -/
def Instr.wf (c : Config) : Instr → Bool
  | .readRawV11      => true
  | .readRawV22      => true
  | .readFloatV11    => true
  | .readFloatV22    => true
  | .request         => true
  | .respLow         => true
  | .respHigh        => true
  | .dataReady       => true
  | .bitHi           => true
  | .bitLo           => true
  | .check           => true
  | .parse11         => true
  | .parse22         => true
  | .toFloat         => true
  | .setdir _        => true
  | .setlvl _        => true
  | .getlvl          => true
  | .delay _         => true
  | .await _ timeout => c.timeoutFits timeout

end Sys2Proof
end

