-- ==== Sys2Proof/Certificates/Slice0/Obligations.lean ====
section
/-! DEFINITION. The statements about the model, from the numbered rules of spec/. Each says what an
instruction or the machine does; an equation of next states is also the frame, since it fixes every field. The
fields `log`, `tick`, `samples`, `drawn`, `inputs` and `ret` are the model's own (assumptions 3, 4, 5 and 7), not
registers of the block: they record the pin actions, ticks and samples that the rules name. -/

open Sys2Proof Sys2Proof.Machine

/-! ### Encodings -/

/-- R61: the four values of `cmd`, none reserved. -/
def Obligations.CmdWordsDecode : Prop :=
  decode (.cmd 0b00#2) = .instr .readRawV11 ∧ decode (.cmd 0b01#2) = .instr .readRawV22 ∧
  decode (.cmd 0b10#2) = .instr .readFloatV11 ∧ decode (.cmd 0b11#2) = .instr .readFloatV22 ∧
  (∀ bits : BitVec 2, ∃ f v, decode (.cmd bits) = .instr (commandOf f v) ∧
    bits.getLsbD 1 = f.code ∧ bits.getLsbD 0 = v.code)

/-- The PHASE and PRIM rows of the opcode map (30_encoding.md section 10, R64, R73), bit by bit. -/
def Obligations.PhaseAndPrimRowsDecode : Prop :=
  (∀ v : Bool, decode (.phase (BitVec.ofBool v ++ 0b0001#4)) = .instr .request ∧
    decode (.phase (BitVec.ofBool v ++ 0b0010#4)) = .instr .respLow ∧
    decode (.phase (BitVec.ofBool v ++ 0b0011#4)) = .instr .respHigh ∧
    decode (.phase (BitVec.ofBool v ++ 0b0100#4)) = .instr .dataReady ∧
    decode (.phase (BitVec.ofBool v ++ 0b0101#4)) = .instr .bitHi ∧
    decode (.phase (BitVec.ofBool v ++ 0b0110#4)) = .instr .bitLo ∧
    decode (.phase (BitVec.ofBool v ++ 0b0111#4)) = .instr .check ∧
    decode (.phase (BitVec.ofBool v ++ 0b1001#4)) = .instr .toFloat) ∧
  decode (.phase 0b01000#5) = .instr .parse11 ∧ decode (.phase 0b11000#5) = .instr .parse22 ∧
  (∀ (b : Bool) (n : U16), decode (.prim ⟨0b001#3, b, n⟩) = .instr (.setdir b) ∧
    decode (.prim ⟨0b010#3, b, n⟩) = .instr (.setlvl b) ∧
    decode (.prim ⟨0b011#3, b, n⟩) = .instr .getlvl ∧
    decode (.prim ⟨0b100#3, b, n⟩) = .instr (.delay n) ∧
    decode (.prim ⟨0b101#3, b, n⟩) = .instr (.await b n))

/-- Decoding the encoding of any instruction, with every operand value and either value of the free bit `v`,
gives it back. -/
def Obligations.DecodeEncodeRoundTrip : Prop :=
  ∀ (v : Variant) (i : Instr), decode (encode v i) = .instr i

/-- R72: exactly the PHASE codes 11 to 15 and the PRIM codes 6 and 7 are reserved; `Idle` and `Done` run no
micro-operation (R12) and PRIM code 0 requests nothing (R73). -/
def Obligations.ReservedCodesAreRejected : Prop :=
  (∀ bits : BitVec 5, decode (.phase bits) = .rejected .reservedPhase ↔ 11 ≤ bits.toNat % 16) ∧
  (∀ bits : BitVec 5, decode (.phase bits) = .rejected .noMicroOp ↔
    (bits.toNat % 16 = 0 ∨ bits.toNat % 16 = 10)) ∧
  (∀ r : PrimReq, decode (.prim r) = .rejected .reservedPrim ↔ 6 ≤ r.code.toNat) ∧
  (∀ r : PrimReq, decode (.prim r) = .rejected .noRequest ↔ r.code = 0)

/-! ### Reset -/

/-- R30: the table of reset values, and the derived outputs. -/
def Obligations.ResetTable : Prop :=
  State.reset.blk =
    { phase := .idle, bitIdx := 0, elapsed := 0, lowDur := 0, highDur := 0, frame := 0, variantQ := .v11,
      fmtQ := .raw, pinOe := false, pinOut := true, status := .ok, errIndex := 0, resultValid := false,
      humTenths := 0, tempTenths := 0, humF32 := 0, tempF32 := 0 } ∧
  State.reset.blk.phase.code = 0 ∧ State.reset.blk.variantQ.code = false ∧
  State.reset.blk.fmtQ.code = false ∧ State.reset.blk.status.code = 0 ∧
  State.reset.blk.busy = false ∧ State.reset.blk.done = false

/-- R200, R201: in every state of a valid instance, a step in which reset is asserted ends with every register
at its reset value and the pin no longer driven, whatever the step would have done. That reset can be placed
`k` ticks into the step is the model's choice (assumption 6). -/
def Obligations.ResetFromEveryState : Prop :=
  ∀ (s : State) (k : Nat), s.cfg.valid = true → s.nextInput.rst = some k →
    ∃ t, step s = .next t ∧ t.blk = State.reset.blk ∧ t.cfg = s.cfg ∧ t.prim = PrimReq.none ∧
      t.inputs = s.inputs.drop 1 ∧ t.tick ≤ s.tick + k ∧
      t.log.head? = some (.drive t.tick false true)

/-- R201: a reset during REQUEST's low hold stops driving the pin at once, after a low pulse shorter than
`T_HOLD_LOW`. The instant within the step is the model's choice (assumption 6). -/
def Obligations.ResetCutsTheLowHoldShort : Prop :=
  ∀ (s : State) (k : Nat), s.cfg.valid = true → s.prim = PrimReq.none → s.blk.phase = .request →
    s.nextInput.rst = some k → 0 < k → k < s.cfg.tHoldLow.toNat →
    step s = .next { s with
      blk := Block.reset, inputs := s.inputs.drop 1, tick := s.tick + k, ret := .none
      log := .drive (s.tick + k) false true :: .drive s.tick true false :: s.log }

/-! ### Commands -/

/-- R160, R202: an accepted command latches `cmd`, clears everything of the last decode, goes to `Request`
and does not touch the pin. -/
def Obligations.CommandIsAccepted : Prop :=
  ∀ (s : State) (f : Fmt) (v : Variant), (s.blk.phase = .idle ∨ s.blk.phase = .done) →
    exec (commandOf f v) s = .next { s with
      blk := { phase := .request, bitIdx := 0, elapsed := 0, lowDur := 0, highDur := 0, frame := 0,
               variantQ := v, fmtQ := f, pinOe := s.blk.pinOe, pinOut := s.blk.pinOut, status := .ok,
               errIndex := 0, resultValid := false, humTenths := 0, tempTenths := 0, humF32 := 0,
               tempF32 := 0 } }

/-- R165: a command while busy changes nothing, and no step of a busy block depends on `start` or `cmd`. -/
def Obligations.StartIsIgnoredWhileBusy : Prop :=
  (∀ (s : State) (f : Fmt) (v : Variant), s.blk.busy = true → exec (commandOf f v) s = .next s) ∧
  (∀ (s : State) (inp : StepInput) (rest : List StepInput) (start : Bool) (cmd : BitVec 2),
    s.blk.busy = true → s.inputs = inp :: rest →
    step { s with inputs := { inp with start := start, cmd := cmd } :: rest } = step s)

/-- R160: in `Idle` and `Done`, without `start` and without reset, nothing changes but that the step's inputs
are used up (assumption 3). That the step counts no tick is the model's choice (assumption 18). -/
def Obligations.WaitingChangesNothing : Prop :=
  ∀ s : State, s.cfg.valid = true → s.prim = PrimReq.none → (s.blk.phase = .idle ∨ s.blk.phase = .done) →
    s.nextInput.rst = none → s.nextInput.start = false →
    step s = .next { s with inputs := s.inputs.drop 1 }

/-- R166, R160: from `Done` on, the outcome and every other register are held unchanged for any number of steps
without `start` and reset ("nothing changes"), and so no pin action is made and no sample taken. The clause
`t.tick = s.tick` is the model's choice (assumption 18): R9 attaches ticks to AWAIT and DELAY alone, and from
that the model deduces that a step of waiting counts none. -/
def Obligations.OutcomeIsHeldUntilTheNextCommand : Prop :=
  ∀ (n : Nat) (s : State), s.cfg.valid = true → s.prim = PrimReq.none → s.blk.phase = .done →
    (∀ inp ∈ s.inputs, inp.rst = none ∧ inp.start = false) →
    ∃ t : State, Host.Core.run Sys2Proof.core n s = .next t ∧ t.blk = s.blk ∧ t.log = s.log ∧
      t.tick = s.tick ∧ t.samples = s.samples

/-! ### The step -/

/-- A step runs the instruction that is selected: the micro-operation of `phase` and `variant_q` in a busy
block (R12, R64), the command on `cmd` when a ready block sees `start` (R160), in the state whose inputs and
request have been taken. The third case is the model's choice (assumption 7), not R73's: that an outstanding
PRIM request is what the step runs, ahead of a micro-operation or a command, and that the step takes it. -/
def Obligations.StepRunsTheDecodedInstruction : Prop :=
  ∀ (s : State) (i : Instr), s.cfg.valid = true → s.nextInput.rst = none →
    ((s.prim.code = 0 ∧ s.blk.busy = true ∧ decode (phaseWord s.blk.variantQ s.blk.phase.code) = .instr i) ∨
     (s.prim.code = 0 ∧ s.blk.busy = false ∧ s.nextInput.start = true ∧
       decode (.cmd s.nextInput.cmd) = .instr i) ∨
     (s.prim.code ≠ 0 ∧ decode (.prim s.prim) = .instr i)) →
    step s = exec i { s with inputs := s.inputs.drop 1, prim := PrimReq.none }

/-- The very next step runs a word placed by `withFetchWord`, with configuration, samples, time and remaining
inputs as they were. How a word is placed is the model's choice (assumption 17), and so is that a placed PRIM
request runs ahead of a micro-operation or a command (assumption 7). -/
def Obligations.PlacedWordRunsNext : Prop :=
  ∀ (s : State) (nbits w : Nat) (i : Instr), s.cfg.valid = true → decodeTableWord nbits w = some i →
    ∃ s' : State, step (s.withFetchWord nbits w) = exec i s' ∧
      s' = { s with
        blk := { s.blk with phase := s'.blk.phase, variantQ := s'.blk.variantQ }, prim := PrimReq.none }

/-- A step is refused in two cases only: an instance outside the constraints of R7 "is not this block"
(93_implementation_defined.md U10; that the step refuses it is assumption 12), and a PRIM request with a reserved
code, when no reset is asserted (R72, R73, U3). The two PRIM clauses are the model's choice (assumption 7): that
an outstanding request, whatever the phase, is what the step looks at, so that a reserved one stops the step and
one of code 1 to 5 goes on. -/
def Obligations.StepRefusesOnlyWhatIsNotThisBlock : Prop :=
  ∀ s : State,
    (s.cfg.valid = false → step s = .refused .invalidConfig) ∧
    (s.cfg.valid = true → s.nextInput.rst = none → 6 ≤ s.prim.code.toNat →
      step s = .refused .reservedPrim) ∧
    (s.cfg.valid = true → (s.prim.code.toNat ≤ 5 ∨ s.nextInput.rst ≠ none) → ∃ t, step s = .next t)

/-! ### The primitives -/

/-- R90: SETDIR writes `pin_oe` and nothing else of the block. -/
def Obligations.SetdirWritesTheDirection : Prop :=
  ∀ (dir : Bool) (s : State),
    exec (.setdir dir) s = .next { s with
      blk := { s.blk with pinOe := dir }
      log := .drive s.tick dir s.blk.pinOut :: s.log
      ret := .none }

/-- R91: SETLVL writes `pin_out` and nothing else of the block. -/
def Obligations.SetlvlWritesTheLevel : Prop :=
  ∀ (level : Bool) (s : State),
    exec (.setlvl level) s = .next { s with
      blk := { s.blk with pinOut := level }
      log := .drive s.tick s.blk.pinOe level :: s.log
      ret := .none }

/-- R95: GETLVL returns one fresh answer of the oracle and changes no register. -/
def Obligations.GetlvlReturnsTheNextSample : Prop :=
  ∀ s : State,
    ∃ t, exec .getlvl s = .next t ∧ t.blk = s.blk ∧ t.cfg = s.cfg ∧ t.inputs = s.inputs ∧
      t.prim = s.prim ∧ t.tick = s.tick ∧ t.drawn = s.drawn + 1 ∧
      (∀ k, t.stream k = s.stream (k + 1)) ∧ t.ret = .level (s.stream 0) ∧
      (∀ b rest, s.samples = b :: rest → t.ret = .level b ∧ t.samples = rest) ∧
      t.log = .sample s.tick (s.stream 0) :: s.log

/-- R96: DELAY lets exactly `n` ticks pass; no register changes and no sample is taken. -/
def Obligations.DelayPassesTicks : Prop :=
  ∀ (n : U16) (s : State),
    exec (.delay n) s = .next { s with tick := s.tick + n.toNat, ret := .none }

/-- R92, R93, R94: AWAIT stops at the first matching sample among the first `N(timeout)`, which lie `POLL`
ticks apart, and reports its time; otherwise it times out after exactly `N(timeout)`. One of the two always
holds, and no register but `elapsed` changes. For a timeout outside R7 (`Instr.wf` false) what holds after a
timeout, the register `elapsed` with `N(timeout) * POLL` modulo 2^16 among it, is the model's choice
(assumption 8); no rule states it. -/
def Obligations.AwaitFindsTheFirstMatch : Prop :=
  ∀ (s : State) (expected : Bool) (timeout : U16), 1 ≤ s.cfg.poll.toNat →
    Waits s (.await expected timeout) expected timeout
      (fun e t => { t with ret := .pulse (.reached e) })
      (fun t => { t with ret := .pulse .timedOut }) ∧
    ((∃ k, s.firstAt expected (s.cfg.maxSamples timeout) k) ∨
      s.never expected (s.cfg.maxSamples timeout))

/-- R93, R14: an AWAIT takes 1 to `N(timeout)` samples and at most `timeout + POLL` ticks; a reported time is at
most `timeout`, equals the ticks that passed, and is `POLL` less than `POLL` times the samples; and for a
timeout within R7 the register `elapsed` holds the ticks without overflow. The clauses on samples and ticks for a
timeout outside R7 are the model's choice (assumption 8). -/
def Obligations.AwaitIsBounded : Prop :=
  ∀ (s : State) (expected : Bool) (timeout : U16), 1 ≤ s.cfg.poll.toNat →
    ∃ t n m, exec (.await expected timeout) s = .next t ∧
      t.drawn = s.drawn + n ∧ 1 ≤ n ∧ n ≤ s.cfg.maxSamples timeout ∧
      t.tick = s.tick + m ∧ m ≤ timeout.toNat + s.cfg.poll.toNat ∧
      (∀ e, t.ret = .pulse (.reached e) →
        e.toNat = m ∧ m ≤ timeout.toNat ∧ n * s.cfg.poll.toNat = m + s.cfg.poll.toNat) ∧
      (t.ret = .pulse .timedOut → n = s.cfg.maxSamples timeout ∧ m = n * s.cfg.poll.toNat) ∧
      (Instr.wf s.cfg (.await expected timeout) = true → t.blk.elapsed.toNat = m)

/-! ### The handshake and the capture -/

/-- R111: REQUEST drives low for `T_HOLD_LOW`, high for `T_RELEASE_HIGH`, stops driving, and takes no sample. -/
def Obligations.RequestDrivesTheWakePulse : Prop :=
  ∀ s : State,
    exec .request s = .next { s with
      blk  := { s.blk with pinOe := false, pinOut := true, phase := .responseLow }
      tick := s.tick + s.cfg.tHoldLow.toNat + s.cfg.tReleaseHigh.toNat
      log  := .drive (s.tick + s.cfg.tHoldLow.toNat + s.cfg.tReleaseHigh.toNat) false true ::
              .drive (s.tick + s.cfg.tHoldLow.toNat) true true ::
              .drive s.tick true false :: s.log }

/-- R112: RESP_LOW waits for low up to `T_RESP_LOW`. -/
def Obligations.RespLowWaitsForLow : Prop :=
  ∀ s : State, s.cfg.valid = true →
    Waits s .respLow false s.cfg.tRespLow
      (fun _ t => { t with blk := { t.blk with phase := .responseHigh } })
      (fun t => { t with blk := t.blk.raise .timeoutAwaitingResponseLow })

/-- R113: RESP_HIGH waits for high up to `T_RESP_HIGH`. -/
def Obligations.RespHighWaitsForHigh : Prop :=
  ∀ s : State, s.cfg.valid = true →
    Waits s .respHigh true s.cfg.tRespHigh
      (fun _ t => { t with blk := { t.blk with phase := .dataReady } })
      (fun t => { t with blk := t.blk.raise .timeoutAwaitingResponseHigh })

/-- R114: DATA_READY waits for low up to `T_DATA_START` and starts the capture at index 0. -/
def Obligations.DataReadyStartsTheCapture : Prop :=
  ∀ s : State, s.cfg.valid = true →
    Waits s .dataReady false s.cfg.tDataStart
      (fun _ t => { t with blk := { t.blk with bitIdx := 0, phase := .bitHigh } })
      (fun t => { t with blk := t.blk.raise .timeoutAwaitingDataStart })

/-- R115: BIT_HI waits for high up to `T_BIT_HIGH` and records the low phase's duration. -/
def Obligations.BitHiMeasuresTheLowPhase : Prop :=
  ∀ s : State, s.cfg.valid = true →
    Waits s .bitHi true s.cfg.tBitHigh
      (fun e t => { t with blk := { t.blk with lowDur := e, phase := .bitLow } })
      (fun t => { t with blk := t.blk.raise (.timeoutAwaitingBit s.blk.bitIdx) })

/-- R116, R119: BIT_LO waits for low up to `T_BIT_LOW`, records the high phase's duration, writes the decided
bit in its place, and goes to the next bit, or after bit 39 to CHECK with `bit_idx` staying 39. -/
def Obligations.BitLoDecidesAndPacksTheBit : Prop :=
  ∀ s : State, s.cfg.valid = true →
    (∀ h : s.blk.bitIdx.val < 39,
      Waits s .bitLo false s.cfg.tBitLow
        (fun e t => { t with blk := { t.blk with
          highDur := e
          frame := setFrameBit s.blk.frame s.blk.bitIdx (decideBit s.cfg.bitRule s.blk.lowDur e)
          bitIdx := ⟨s.blk.bitIdx.val + 1, by omega⟩
          phase := .bitHigh } })
        (fun t => { t with blk := t.blk.raise (.timeoutAwaitingBit s.blk.bitIdx) })) ∧
    (s.blk.bitIdx = 39 →
      Waits s .bitLo false s.cfg.tBitLow
        (fun e t => { t with blk := { t.blk with
          highDur := e
          frame := setFrameBit s.blk.frame 39 (decideBit s.cfg.bitRule s.blk.lowDur e)
          phase := .check } })
        (fun t => { t with blk := t.blk.raise (.timeoutAwaitingBit 39) }))

/-- R117: the bit is 1 exactly when the high phase lasted strictly longer than the low phase. -/
def Obligations.BitDecisionIsStrict : Prop :=
  ∀ lo hi : U16, decideBit .relative lo hi = true ↔ lo.toNat < hi.toNat

/-- The optional fallback of R8: under `FixedThreshold(K)` the bit is 1 exactly when the high phase lasted longer
than `K` ticks. Which duration is compared is an inference the spec marks as its own, and that the model takes
the fallback at all is its choice (assumption 11). -/
def Obligations.FixedThresholdComparesTheHighPhase : Prop :=
  ∀ (k : Nat) (lo hi : U16), decideBit (.fixedThreshold k) lo hi = true ↔ k < hi.toNat

/-- R118, R66: the bit of capture index `i` is `frame[39 - i]`, which is bit `7 - (i mod 8)` of byte
`floor(i / 8)`; writing it changes no other bit. -/
def Obligations.PackingWritesExactlyOneBit : Prop :=
  ∀ (f : Frame) (i : BitIdx) (b : Bool),
    (∀ j, j < 40 → (setFrameBit f i b).getLsbD j = if j = 39 - i.val then b else f.getLsbD j) ∧
    (∀ k : ByteIdx, k.val = i.val / 8 →
      (frameByte (setFrameBit f i b) k).getLsbD (7 - i.val % 8) = b)

/-- R180, R175: what a failure does, register by register, and its code. -/
def Obligations.RaiseClearsEverythingSurfaced : Prop :=
  ∀ (f : Failure) (s : State),
    s.raise f = { s with blk := { s.blk with
      phase := .done, frame := 0, resultValid := false, humTenths := 0, tempTenths := 0, humF32 := 0,
      tempF32 := 0
      status := (match f with
        | .timeoutAwaitingResponseLow => .timeoutAwaitingResponseLow
        | .timeoutAwaitingResponseHigh => .timeoutAwaitingResponseHigh
        | .timeoutAwaitingDataStart => .timeoutAwaitingDataStart
        | .timeoutAwaitingBit _ => .timeoutAwaitingBit
        | .checksumMismatch => .checksumMismatch)
      errIndex := (match f with
        | .timeoutAwaitingBit i => i
        | .timeoutAwaitingResponseLow => 0
        | .timeoutAwaitingResponseHigh => 0
        | .timeoutAwaitingDataStart => 0
        | .checksumMismatch => 0) } } ∧
    (s.raise f).blk.status.code = (match f with
      | .timeoutAwaitingResponseLow => 1
      | .timeoutAwaitingResponseHigh => 2
      | .timeoutAwaitingDataStart => 3
      | .timeoutAwaitingBit _ => 4
      | .checksumMismatch => 5) ∧
    (s.raise f).blk.outcome = some (.err f)

/-! ### The payload -/

/-- R140: CHECK passes exactly when the fifth byte is the sum of the first four modulo 256. -/
def Obligations.CheckComparesTheSumModulo256 : Prop :=
  ∀ (s : State) (b0 b1 b2 b3 b4 : Byte), s.blk.frame = b0 ++ b1 ++ b2 ++ b3 ++ b4 →
    ((b0.toNat + b1.toNat + b2.toNat + b3.toNat) % 256 = b4.toNat →
      exec .check s = .next { s with blk := { s.blk with phase := .parse } }) ∧
    ((b0.toNat + b1.toNat + b2.toNat + b3.toNat) % 256 ≠ b4.toNat →
      exec .check s = .next { s with blk := s.blk.raise .checksumMismatch })

/-- R141: PARSE11; the results as integers, the frame cleared on entering `Done` (R168). -/
def Obligations.Parse11ScalesTheBytes : Prop :=
  ∀ (s : State) (b0 b1 b2 b3 b4 : Byte), s.blk.frame = b0 ++ b1 ++ b2 ++ b3 ++ b4 →
    ∃ hum temp : U16, hum.toNat = b0.toNat * 10 ∧ temp.toNat = b2.toNat * 10 ∧
      sext hum = b0.toNat * 10 ∧ sext temp = b2.toNat * 10 ∧
      (s.blk.fmtQ = .float → exec .parse11 s = .next { s with blk := { s.blk with
        humTenths := hum, tempTenths := temp, resultValid := true, phase := .toFloat } }) ∧
      (s.blk.fmtQ = .raw → exec .parse11 s = .next { s with blk := { s.blk with
        humTenths := hum, tempTenths := temp, resultValid := true, phase := .done, frame := 0 } })

/-- R142, R143, R145: PARSE22; the humidity is the pattern unchanged, the temperature is sign-magnitude. -/
def Obligations.Parse22ReadsSignMagnitude : Prop :=
  ∀ (s : State) (b0 b1 b2 b3 b4 : Byte), s.blk.frame = b0 ++ b1 ++ b2 ++ b3 ++ b4 →
    ∃ hum temp : U16, hum.toNat = b0.toNat * 256 + b1.toNat ∧
      (b2.toNat < 128 → sext temp = b2.toNat * 256 + b3.toNat) ∧
      (128 ≤ b2.toNat → sext temp = -(((b2.toNat - 128) * 256 + b3.toNat : Nat) : Int)) ∧
      (s.blk.fmtQ = .float → exec .parse22 s = .next { s with blk := { s.blk with
        humTenths := hum, tempTenths := temp, resultValid := true, phase := .toFloat } }) ∧
      (s.blk.fmtQ = .raw → exec .parse22 s = .next { s with blk := { s.blk with
        humTenths := hum, tempTenths := temp, resultValid := true, phase := .done, frame := 0 } })

/-- R150, R151, R168: TOFLOAT writes the two quotients of the signed integer registers and nothing else but
`phase` and the cleared `frame`. -/
def Obligations.ToFloatDividesTheIntegers : Prop :=
  ∀ s : State,
    exec .toFloat s = .next { s with blk := { s.blk with
      humF32 := rn32Tenths s.blk.humTenths.toInt
      tempF32 := rn32Tenths s.blk.tempTenths.toInt
      frame := 0, phase := .done } }

/-- R150: for every i16 integer `n`, `RN32(n / 10)` is the finite binary32 pattern nearest to the exact
quotient; a tie would go to the even significand; zero gives the pattern of +0.0. -/
def Obligations.QuotientIsTheNearestFloat : Prop :=
  rn32Tenths 0 = 0 ∧
  ∀ n : Int, -32768 ≤ n → n ≤ 32767 →
    f32Finite (rn32Tenths n) = true ∧
    ∀ w : F32, f32Finite w = true →
      |f32Value (rn32Tenths n) - n / 10| ≤ |f32Value w - n / 10| ∧
      (|f32Value (rn32Tenths n) - n / 10| = |f32Value w - n / 10| → f32Value w ≠ f32Value (rn32Tenths n) →
        (rn32Tenths n).getLsbD 0 = false)

/-- R146: the `parse` function on integers and the block's CHECK and parsers agree on every frame. -/
def Obligations.ParseFunctionAgreesWithTheRegisters : Prop :=
  ∀ (v : Variant) (f : Frame),
    parseFrame v f = if csOk f then
      .ok (match v with
        | .v11 => (sext (humidity11 f), sext (temperature11 f))
        | .v22 => (sext (humidity22 f), sext (temperature22 f)))
      else .error .checksumMismatch

/-! ### Who may change what -/

/-- R11, R13 to R16, R18, R20 to R26: who may change which register. The configuration never changes. A command
changes the registers by ACCEPT alone or not at all. Only the six instructions that can fail (R175) write
`status` and `err_index`, and when one fails it goes to `Done` with the frame and every result cleared (R180);
otherwise it leaves the results alone. Beside them BIT_LO writes the frame, and a parser or TOFLOAT clears it
with the step into `Done` (R168); the parsers write the integer results, TOFLOAT the float results. The pin
registers, the bit index, `elapsed` and the durations change by the writers R13 to R15 and R18 name, and by
SETDIR, SETLVL and AWAIT as requests; a primitive changes no other register. -/
def Obligations.RegistersChangeOnlyByTheirWriters : Prop :=
  ∀ (i : Instr) (s t : State), exec i s = .next t →
    t.cfg = s.cfg ∧ t.inputs = s.inputs ∧ t.prim = s.prim ∧
    (i.format = .cmd → t.blk = s.blk ∨ ∃ f v, t.blk = s.blk.accept f v) ∧
    (i.format ≠ .cmd → t.blk.variantQ = s.blk.variantQ ∧ t.blk.fmtQ = s.blk.fmtQ) ∧
    (i ≠ .request → (∀ b, i ≠ .setdir b) → t.blk.pinOe = s.blk.pinOe) ∧
    (i ≠ .request → (∀ b, i ≠ .setlvl b) → t.blk.pinOut = s.blk.pinOut) ∧
    (i.format ≠ .cmd → i ≠ .dataReady → i ≠ .bitLo → t.blk.bitIdx = s.blk.bitIdx) ∧
    (i.format ≠ .cmd → i ∉ [Instr.respLow, .respHigh, .dataReady, .bitHi, .bitLo] →
      (∀ e n, i ≠ .await e n) → t.blk.elapsed = s.blk.elapsed) ∧
    (i.format ≠ .cmd → i ≠ .bitHi → t.blk.lowDur = s.blk.lowDur) ∧
    (i.format ≠ .cmd → i ≠ .bitLo → t.blk.highDur = s.blk.highDur) ∧
    (i ∈ [Instr.respLow, .respHigh, .dataReady, .bitHi, .bitLo, .check] →
      (t.blk.status ≠ .ok ∧ t.blk.phase = .done ∧ t.blk.frame = 0 ∧ t.blk.noReading) ∨
      (t.blk.status = s.blk.status ∧ t.blk.errIndex = s.blk.errIndex ∧
        t.blk.resultValid = s.blk.resultValid ∧ t.blk.humTenths = s.blk.humTenths ∧
        t.blk.tempTenths = s.blk.tempTenths ∧ t.blk.humF32 = s.blk.humF32 ∧ t.blk.tempF32 = s.blk.tempF32 ∧
        (i ≠ .bitLo → t.blk.frame = s.blk.frame))) ∧
    (i.format ≠ .cmd → i ∉ [Instr.respLow, .respHigh, .dataReady, .bitHi, .bitLo, .check] →
      t.blk.status = s.blk.status ∧ t.blk.errIndex = s.blk.errIndex ∧
      (i ≠ .parse11 → i ≠ .parse22 → t.blk.resultValid = s.blk.resultValid ∧
        t.blk.humTenths = s.blk.humTenths ∧ t.blk.tempTenths = s.blk.tempTenths) ∧
      (i ≠ .toFloat → t.blk.humF32 = s.blk.humF32 ∧ t.blk.tempF32 = s.blk.tempF32) ∧
      (t.blk.frame = s.blk.frame ∨
        (i ∈ [Instr.parse11, .parse22, .toFloat] ∧ t.blk.frame = 0 ∧ t.blk.phase = .done))) ∧
    (i.format = .prim → t.blk = { s.blk with
      pinOe := t.blk.pinOe, pinOut := t.blk.pinOut, elapsed := t.blk.elapsed })

/-- R51, R117, R120: the capture and CHECK do not depend on the variant or on the format of the command. -/
def Obligations.CaptureIgnoresTheVariant : Prop :=
  ∀ (i : Instr) (s t : State) (v : Variant) (f : Fmt),
    i ∈ [Instr.request, .respLow, .respHigh, .dataReady, .bitHi, .bitLo, .check] → exec i s = .next t →
    exec i { s with blk := { s.blk with variantQ := v, fmtQ := f } } =
      .next { t with blk := { t.blk with variantQ := v, fmtQ := f } }

/-- R12: the transition table of `phase`. -/
def Obligations.PhaseAdvancesAsTheTableSays : Prop :=
  ∀ s : State, s.cfg.valid = true → s.prim = PrimReq.none → s.nextInput.rst = none →
    ∃ t, step s = .next t ∧
      (match s.blk.phase with
      | .idle => t.blk.phase = if s.nextInput.start then .request else .idle
      | .request => t.blk.phase = .responseLow
      | .responseLow => t.blk.phase = .responseHigh ∨ t.blk.phase = .done
      | .responseHigh => t.blk.phase = .dataReady ∨ t.blk.phase = .done
      | .dataReady => (t.blk.phase = .bitHigh ∧ t.blk.bitIdx = 0) ∨ t.blk.phase = .done
      | .bitHigh => (t.blk.phase = .bitLow ∧ t.blk.bitIdx = s.blk.bitIdx) ∨ t.blk.phase = .done
      | .bitLow => (s.blk.bitIdx.val < 39 ∧ t.blk.phase = .bitHigh ∧
            t.blk.bitIdx.val = s.blk.bitIdx.val + 1) ∨
          (s.blk.bitIdx = 39 ∧ t.blk.phase = .check ∧ t.blk.bitIdx = 39) ∨ t.blk.phase = .done
      | .check => t.blk.phase = .parse ∨ t.blk.phase = .done
      | .parse => t.blk.phase = if s.blk.fmtQ = .float then .toFloat else .done
      | .toFloat => t.blk.phase = .done
      | .done => t.blk.phase = if s.nextInput.start then .request else .done)

/-! ### The invariant -/

/-- The invariant holds after reset: for the block's registers by R30, for the model's own fields `cfg`, `prim`
and `log` by the values the model chose (assumptions 1, 5 and 7). -/
def Obligations.ResetMeetsTheInvariant : Prop := State.reset.Inv

/-- From every state that meets the invariant, a step ends in one that meets it: the pin is released, no frame
and no partial result is surfaced, a frame that fails its checksum reaches no parser, the uncaptured bits are 0,
the pin actions are in program order, and a Reading is present exactly in a successful `Done` and while TOFLOAT
is still to run. That last "while" is the model's choice (assumption 9): PARSE writes `result_valid` for
READ_FLOAT already (R141, R142), while R22 says exactly when `done = 1` and `status = 0`. -/
def Obligations.EveryStepKeepsTheInvariant : Prop :=
  ∀ s t : State, s.Inv → step s = .next t → t.Inv

/-- R44, R52: from every state that meets the invariant, a step goes on, and takes a sample only in a waiting
phase, with the pin in input mode. -/
def Obligations.SamplesAreTakenOnlyInInputMode : Prop :=
  ∀ s : State, s.Inv → ∃ t, step s = .next t ∧ s.drawn ≤ t.drawn ∧
    (t.drawn ≠ s.drawn → s.blk.pinOe = false ∧
      s.blk.phase ∈ [Phase.responseLow, .responseHigh, .dataReady, .bitHigh, .bitLow])

/-! ### Whole decodes -/

/-- R120, R167: a decode run step by step ends, within 87 steps of its acceptance, in `Done` with exactly the
outcome of `read_raw` or `read_float` on the sample stream. The caller may raise `start` at will while it
runs. -/
def Obligations.DecodeMatchesTheReferenceFunctions : Prop :=
  ∀ (s : State) (f : Fmt) (v : Variant), s.Accepting f v → s.noReset →
    ∃ t u, step s = .next t ∧ runToDone 87 t = .next u ∧ u.blk.phase = .done ∧
      u.blk.outcome = some (readOutcome s.cfg f v s.stream)

/-- R123, R125, R210: a decode takes exactly the samples the capture function consumes, at most
`N(T_RESP_LOW) + N(T_RESP_HIGH) + N(T_DATA_START) + 40 * (N(T_BIT_HIGH) + N(T_BIT_LOW))`; beyond REQUEST's two
delays it takes at most `(that bound - 82) * POLL` ticks, and when the capture succeeds at least 83 samples and
exactly `(samples - 83) * POLL` ticks. -/
def Obligations.DecodeEndsWithinItsTimeouts : Prop :=
  ∀ (s : State) (f : Fmt) (v : Variant), s.Accepting f v → s.noReset →
    ∃ t u m, step s = .next t ∧ runToDone 87 t = .next u ∧ u.blk.phase = .done ∧
      u.drawn = s.drawn + (capture s.cfg s.stream).pos ∧
      (capture s.cfg s.stream).pos ≤ s.cfg.maxDecodeSamples ∧
      u.tick = s.tick + s.cfg.requestTicks + m ∧
      m ≤ (s.cfg.maxDecodeSamples - 82) * s.cfg.poll.toNat ∧
      (∀ fr, (capture s.cfg s.stream).result = .ok fr →
        83 ≤ (capture s.cfg s.stream).pos ∧
        m = ((capture s.cfg s.stream).pos - 83) * s.cfg.poll.toNat)

/-- R43, R111, R168: the pin trace of a decode is exactly drive low, `T_HOLD_LOW` ticks, drive high,
`T_RELEASE_HIGH` ticks, stop driving, whatever the command and the samples; and at the end the pin is in input
mode. -/
def Obligations.PinTraceDoesNotDependOnTheSamples : Prop :=
  ∀ (s : State) (f : Fmt) (v : Variant), s.Accepting f v → s.noReset →
    ∃ t u, step s = .next t ∧ runToDone 87 t = .next u ∧
      u.blk.pinOe = false ∧ u.blk.pinOut = true ∧
      u.pinTrace = s.pinTrace ++ [(s.tick, true, false), (s.tick + s.cfg.tHoldLow.toNat, true, true),
        (s.tick + s.cfg.tHoldLow.toNat + s.cfg.tReleaseHigh.toNat, false, true)]

/-- R29, R202, R184: whatever earlier decodes left in the registers, two decodes of the same command with the
same configuration and the same samples end with the same registers. -/
def Obligations.NothingSurvivesIntoTheNextDecode : Prop :=
  ∀ (s s' : State) (f : Fmt) (v : Variant), s.Accepting f v → s'.Accepting f v → s.noReset → s'.noReset →
    s.cfg = s'.cfg → (∀ k, s.stream k = s'.stream k) →
    ∃ t t' u u', step s = .next t ∧ step s' = .next t' ∧ runToDone 87 t = .next u ∧
      runToDone 87 t' = .next u' ∧ u.blk.phase = .done ∧ u.blk = u'.blk
end

