-- ==== Sys2Proof/Laws/State.lean ====
section
/-! SUPPORT. One lemma per field per update of the state, true by `rfl`, so that no later proof unfolds a
record update. -/

namespace Sys2Proof.Machine

variable (s : State)

@[simp] theorem State.goto_cfg (p : Phase) : (s.goto p).cfg = s.cfg := rfl
@[simp] theorem State.goto_blk (p : Phase) : (s.goto p).blk = { s.blk with phase := p } := rfl
@[simp] theorem State.goto_inputs (p : Phase) : (s.goto p).inputs = s.inputs := rfl
@[simp] theorem State.goto_samples (p : Phase) : (s.goto p).samples = s.samples := rfl
@[simp] theorem State.goto_drawn (p : Phase) : (s.goto p).drawn = s.drawn := rfl
@[simp] theorem State.goto_tick (p : Phase) : (s.goto p).tick = s.tick := rfl
@[simp] theorem State.goto_log (p : Phase) : (s.goto p).log = s.log := rfl
@[simp] theorem State.goto_prim (p : Phase) : (s.goto p).prim = s.prim := rfl
@[simp] theorem State.goto_ret (p : Phase) : (s.goto p).ret = s.ret := rfl

@[simp] theorem State.setElapsed_cfg (e : Nat) : (s.setElapsed e).cfg = s.cfg := rfl
@[simp] theorem State.setElapsed_blk (e : Nat) :
    (s.setElapsed e).blk = { s.blk with elapsed := BitVec.ofNat 16 e } := rfl
@[simp] theorem State.setElapsed_inputs (e : Nat) : (s.setElapsed e).inputs = s.inputs := rfl
@[simp] theorem State.setElapsed_samples (e : Nat) : (s.setElapsed e).samples = s.samples := rfl
@[simp] theorem State.setElapsed_drawn (e : Nat) : (s.setElapsed e).drawn = s.drawn := rfl
@[simp] theorem State.setElapsed_tick (e : Nat) : (s.setElapsed e).tick = s.tick := rfl
@[simp] theorem State.setElapsed_log (e : Nat) : (s.setElapsed e).log = s.log := rfl
@[simp] theorem State.setElapsed_prim (e : Nat) : (s.setElapsed e).prim = s.prim := rfl
@[simp] theorem State.setElapsed_ret (e : Nat) : (s.setElapsed e).ret = s.ret := rfl

@[simp] theorem State.pinDrive_cfg (oe out : Bool) : (s.pinDrive oe out).cfg = s.cfg := rfl
@[simp] theorem State.pinDrive_blk (oe out : Bool) :
    (s.pinDrive oe out).blk = { s.blk with pinOe := oe, pinOut := out } := rfl
@[simp] theorem State.pinDrive_inputs (oe out : Bool) : (s.pinDrive oe out).inputs = s.inputs := rfl
@[simp] theorem State.pinDrive_samples (oe out : Bool) : (s.pinDrive oe out).samples = s.samples := rfl
@[simp] theorem State.pinDrive_drawn (oe out : Bool) : (s.pinDrive oe out).drawn = s.drawn := rfl
@[simp] theorem State.pinDrive_tick (oe out : Bool) : (s.pinDrive oe out).tick = s.tick := rfl
@[simp] theorem State.pinDrive_log (oe out : Bool) :
    (s.pinDrive oe out).log = .drive s.tick oe out :: s.log := rfl
@[simp] theorem State.pinDrive_prim (oe out : Bool) : (s.pinDrive oe out).prim = s.prim := rfl
@[simp] theorem State.pinDrive_ret (oe out : Bool) : (s.pinDrive oe out).ret = s.ret := rfl

@[simp] theorem State.pass_cfg (n : Nat) : (s.pass n).cfg = s.cfg := rfl
@[simp] theorem State.pass_blk (n : Nat) : (s.pass n).blk = s.blk := rfl
@[simp] theorem State.pass_inputs (n : Nat) : (s.pass n).inputs = s.inputs := rfl
@[simp] theorem State.pass_samples (n : Nat) : (s.pass n).samples = s.samples := rfl
@[simp] theorem State.pass_drawn (n : Nat) : (s.pass n).drawn = s.drawn := rfl
@[simp] theorem State.pass_tick (n : Nat) : (s.pass n).tick = s.tick + n := rfl
@[simp] theorem State.pass_log (n : Nat) : (s.pass n).log = s.log := rfl
@[simp] theorem State.pass_prim (n : Nat) : (s.pass n).prim = s.prim := rfl
@[simp] theorem State.pass_ret (n : Nat) : (s.pass n).ret = s.ret := rfl

@[simp] theorem State.afterRead_cfg : (s.afterRead).cfg = s.cfg := rfl
@[simp] theorem State.afterRead_blk : (s.afterRead).blk = s.blk := rfl
@[simp] theorem State.afterRead_inputs : (s.afterRead).inputs = s.inputs := rfl
@[simp] theorem State.afterRead_samples : (s.afterRead).samples = s.samples.drop 1 := rfl
@[simp] theorem State.afterRead_drawn : (s.afterRead).drawn = s.drawn + 1 := rfl
@[simp] theorem State.afterRead_tick : (s.afterRead).tick = s.tick := rfl
@[simp] theorem State.afterRead_log : (s.afterRead).log = .sample s.tick (s.stream 0) :: s.log := rfl
@[simp] theorem State.afterRead_prim : (s.afterRead).prim = s.prim := rfl
@[simp] theorem State.afterRead_ret : (s.afterRead).ret = s.ret := rfl

@[simp] theorem State.raise_cfg (f : Failure) : (s.raise f).cfg = s.cfg := rfl
@[simp] theorem State.raise_blk (f : Failure) : (s.raise f).blk = s.blk.raise f := rfl
@[simp] theorem State.raise_inputs (f : Failure) : (s.raise f).inputs = s.inputs := rfl
@[simp] theorem State.raise_samples (f : Failure) : (s.raise f).samples = s.samples := rfl
@[simp] theorem State.raise_drawn (f : Failure) : (s.raise f).drawn = s.drawn := rfl
@[simp] theorem State.raise_tick (f : Failure) : (s.raise f).tick = s.tick := rfl
@[simp] theorem State.raise_log (f : Failure) : (s.raise f).log = s.log := rfl
@[simp] theorem State.raise_prim (f : Failure) : (s.raise f).prim = s.prim := rfl
@[simp] theorem State.raise_ret (f : Failure) : (s.raise f).ret = s.ret := rfl

@[simp] theorem State.enterDone_cfg : (s.enterDone).cfg = s.cfg := rfl
@[simp] theorem State.enterDone_blk : (s.enterDone).blk = { s.blk with frame := 0, phase := .done } := rfl
@[simp] theorem State.enterDone_inputs : (s.enterDone).inputs = s.inputs := rfl
@[simp] theorem State.enterDone_samples : (s.enterDone).samples = s.samples := rfl
@[simp] theorem State.enterDone_drawn : (s.enterDone).drawn = s.drawn := rfl
@[simp] theorem State.enterDone_tick : (s.enterDone).tick = s.tick := rfl
@[simp] theorem State.enterDone_log : (s.enterDone).log = s.log := rfl
@[simp] theorem State.enterDone_prim : (s.enterDone).prim = s.prim := rfl
@[simp] theorem State.enterDone_ret : (s.enterDone).ret = s.ret := rfl

@[simp] theorem State.latched_cfg : (s.latched).cfg = s.cfg := rfl
@[simp] theorem State.latched_blk : (s.latched).blk = s.blk := rfl
@[simp] theorem State.latched_inputs : (s.latched).inputs = s.inputs.drop 1 := rfl
@[simp] theorem State.latched_samples : (s.latched).samples = s.samples := rfl
@[simp] theorem State.latched_drawn : (s.latched).drawn = s.drawn := rfl
@[simp] theorem State.latched_tick : (s.latched).tick = s.tick := rfl
@[simp] theorem State.latched_log : (s.latched).log = s.log := rfl
@[simp] theorem State.latched_prim : (s.latched).prim = PrimReq.none := rfl
@[simp] theorem State.latched_ret : (s.latched).ret = s.ret := rfl

@[simp] theorem State.waited_cfg (n m : Nat) : (s.waited n m).cfg = s.cfg := rfl
@[simp] theorem State.waited_blk (n m : Nat) :
    (s.waited n m).blk = { s.blk with elapsed := BitVec.ofNat 16 m } := rfl
@[simp] theorem State.waited_inputs (n m : Nat) : (s.waited n m).inputs = s.inputs := rfl
@[simp] theorem State.waited_samples (n m : Nat) : (s.waited n m).samples = s.samples.drop n := rfl
@[simp] theorem State.waited_drawn (n m : Nat) : (s.waited n m).drawn = s.drawn + n := rfl
@[simp] theorem State.waited_tick (n m : Nat) : (s.waited n m).tick = s.tick + m := rfl
@[simp] theorem State.waited_log (n m : Nat) :
    (s.waited n m).log = sampleEvents s.stream s.tick s.cfg.poll.toNat n ++ s.log := rfl
@[simp] theorem State.waited_prim (n m : Nat) : (s.waited n m).prim = s.prim := rfl
@[simp] theorem State.waited_ret (n m : Nat) : (s.waited n m).ret = s.ret := rfl

section
variable (b : Block)

@[simp] theorem Block.raise_phase (f : Failure) : (b.raise f).phase = .done := rfl
@[simp] theorem Block.raise_bitIdx (f : Failure) : (b.raise f).bitIdx = b.bitIdx := rfl
@[simp] theorem Block.raise_elapsed (f : Failure) : (b.raise f).elapsed = b.elapsed := rfl
@[simp] theorem Block.raise_lowDur (f : Failure) : (b.raise f).lowDur = b.lowDur := rfl
@[simp] theorem Block.raise_highDur (f : Failure) : (b.raise f).highDur = b.highDur := rfl
@[simp] theorem Block.raise_frame (f : Failure) : (b.raise f).frame = 0 := rfl
@[simp] theorem Block.raise_variantQ (f : Failure) : (b.raise f).variantQ = b.variantQ := rfl
@[simp] theorem Block.raise_fmtQ (f : Failure) : (b.raise f).fmtQ = b.fmtQ := rfl
@[simp] theorem Block.raise_pinOe (f : Failure) : (b.raise f).pinOe = b.pinOe := rfl
@[simp] theorem Block.raise_pinOut (f : Failure) : (b.raise f).pinOut = b.pinOut := rfl
@[simp] theorem Block.raise_status (f : Failure) : (b.raise f).status = f.status := rfl
@[simp] theorem Block.raise_errIndex (f : Failure) : (b.raise f).errIndex = f.errIndex := rfl
@[simp] theorem Block.raise_resultValid (f : Failure) : (b.raise f).resultValid = false := rfl
@[simp] theorem Block.raise_humTenths (f : Failure) : (b.raise f).humTenths = 0 := rfl
@[simp] theorem Block.raise_tempTenths (f : Failure) : (b.raise f).tempTenths = 0 := rfl
@[simp] theorem Block.raise_humF32 (f : Failure) : (b.raise f).humF32 = 0 := rfl
@[simp] theorem Block.raise_tempF32 (f : Failure) : (b.raise f).tempF32 = 0 := rfl

@[simp] theorem Block.accept_phase (f : Fmt) (v : Variant) : (b.accept f v).phase = .request := rfl
@[simp] theorem Block.accept_bitIdx (f : Fmt) (v : Variant) : (b.accept f v).bitIdx = 0 := rfl
@[simp] theorem Block.accept_elapsed (f : Fmt) (v : Variant) : (b.accept f v).elapsed = 0 := rfl
@[simp] theorem Block.accept_lowDur (f : Fmt) (v : Variant) : (b.accept f v).lowDur = 0 := rfl
@[simp] theorem Block.accept_highDur (f : Fmt) (v : Variant) : (b.accept f v).highDur = 0 := rfl
@[simp] theorem Block.accept_frame (f : Fmt) (v : Variant) : (b.accept f v).frame = 0 := rfl
@[simp] theorem Block.accept_variantQ (f : Fmt) (v : Variant) : (b.accept f v).variantQ = v := rfl
@[simp] theorem Block.accept_fmtQ (f : Fmt) (v : Variant) : (b.accept f v).fmtQ = f := rfl
@[simp] theorem Block.accept_pinOe (f : Fmt) (v : Variant) : (b.accept f v).pinOe = b.pinOe := rfl
@[simp] theorem Block.accept_pinOut (f : Fmt) (v : Variant) : (b.accept f v).pinOut = b.pinOut := rfl
@[simp] theorem Block.accept_status (f : Fmt) (v : Variant) : (b.accept f v).status = .ok := rfl
@[simp] theorem Block.accept_errIndex (f : Fmt) (v : Variant) : (b.accept f v).errIndex = 0 := rfl
@[simp] theorem Block.accept_resultValid (f : Fmt) (v : Variant) : (b.accept f v).resultValid = false := rfl
@[simp] theorem Block.accept_humTenths (f : Fmt) (v : Variant) : (b.accept f v).humTenths = 0 := rfl
@[simp] theorem Block.accept_tempTenths (f : Fmt) (v : Variant) : (b.accept f v).tempTenths = 0 := rfl
@[simp] theorem Block.accept_humF32 (f : Fmt) (v : Variant) : (b.accept f v).humF32 = 0 := rfl
@[simp] theorem Block.accept_tempF32 (f : Fmt) (v : Variant) : (b.accept f v).tempF32 = 0 := rfl

end

end Sys2Proof.Machine
end

