-- ==== Sys2Proof/Laws/Await.lean ====
section
/-! SUPPORT. What the timing primitive can do, said once (40_timing_primitive.md R92 to R94): the closed form
of `State.await`, the closed form of a waiting phase, and the stream-level `firstMatch` of the reference. -/

namespace Sys2Proof.Machine

/-! ### The sample stream -/

@[simp] theorem State.stream_afterRead (s : State) (k : Nat) : s.afterRead.stream k = s.stream (k + 1) := by
  simp [State.stream, List.getD_eq_getElem?_getD, Nat.add_comm 1 k, Nat.add_assoc]

@[simp] theorem State.stream_pass (s : State) (n k : Nat) : (s.pass n).stream k = s.stream k := rfl

@[simp] theorem State.stream_setElapsed (s : State) (e k : Nat) :
    (s.setElapsed e).stream k = s.stream k := rfl

@[simp] theorem State.stream_goto (s : State) (p : Phase) (k : Nat) : (s.goto p).stream k = s.stream k := rfl

@[simp] theorem State.stream_waited (s : State) (n m k : Nat) : (s.waited n m).stream k = s.stream (n + k) := by
  simp [State.stream, List.getD_eq_getElem?_getD, Nat.add_assoc]

/-! ### The first match -/

theorem firstMatch_some {σ : Stream} {e : Bool} :
    ∀ {n pos k : Nat}, firstMatch σ e n pos = some k ↔
      (k < n ∧ σ (pos + k) = e ∧ ∀ j, j < k → σ (pos + j) ≠ e)
  | 0, pos, k => by simp [firstMatch]
  | n + 1, pos, k => by
    by_cases h : σ pos = e
    · simp only [firstMatch, h, if_true, Option.some.injEq]
      constructor
      · rintro rfl
        exact ⟨by omega, by simpa using h, fun j hj => by omega⟩
      · rintro ⟨-, -, hj⟩
        rcases Nat.eq_zero_or_pos k with hk | hk
        · exact hk.symm
        · exact absurd h (by simpa using hj 0 hk)
    · simp only [firstMatch, h, if_false, Option.map_eq_some_iff]
      constructor
      · rintro ⟨k', hk', rfl⟩
        obtain ⟨h1, h2, h3⟩ := firstMatch_some.1 hk'
        refine ⟨by omega, by rw [← h2]; congr 1; omega, fun j hj => ?_⟩
        cases j with
        | zero => simpa using h
        | succ j => have := h3 j (by omega); rwa [show pos + (j + 1) = pos + 1 + j by omega]
      · rintro ⟨h1, h2, h3⟩
        cases k with
        | zero => exact absurd (by simpa using h2) h
        | succ k =>
          refine ⟨k, firstMatch_some.2 ⟨by omega, by rw [← h2]; congr 1; omega, fun j hj => ?_⟩, rfl⟩
          have := h3 (j + 1) (by omega)
          rwa [show pos + (j + 1) = pos + 1 + j by omega] at this

theorem firstMatch_none {σ : Stream} {e : Bool} :
    ∀ {n pos : Nat}, firstMatch σ e n pos = none ↔ ∀ j, j < n → σ (pos + j) ≠ e
  | 0, pos => by simp [firstMatch]
  | n + 1, pos => by
    by_cases h : σ pos = e
    · simp only [firstMatch, h, if_true, reduceCtorEq, false_iff]
      exact fun hall => hall 0 (by omega) (by simpa using h)
    · simp only [firstMatch, h, if_false, Option.map_eq_none_iff, firstMatch_none]
      constructor
      · intro hall j hj
        cases j with
        | zero => simpa using h
        | succ j => have := hall j (by omega); rwa [show pos + (j + 1) = pos + 1 + j by omega]
      · intro hall j hj
        have := hall (j + 1) (by omega)
        rwa [show pos + (j + 1) = pos + 1 + j by omega] at this

theorem State.firstAt_iff (s : State) (e : Bool) (n k : Nat) :
    s.firstAt e n k ↔ firstMatch s.stream e n 0 = some k := by
  simp [State.firstAt, firstMatch_some]

theorem State.never_iff (s : State) (e : Bool) (n : Nat) :
    s.never e n ↔ firstMatch s.stream e n 0 = none := by
  simp [State.never, firstMatch_none]

/-! ### The loop -/

/-- The number of samples bounds the ticks at which a sample is taken: `j * POLL <= T` exactly for
`j < N(T)`. -/
theorem Config.mul_poll_le_iff {c : Config} (hp : 1 ≤ c.poll.toNat) (t : U16) (j : Nat) :
    j * c.poll.toNat ≤ t.toNat ↔ j < c.maxSamples t := by
  rw [Config.maxSamples, Nat.lt_succ_iff, Nat.le_div_iff_mul_le (by omega)]

/-- The state of the loop after `j` samples that did not match. -/
def State.polled (s : State) (j : Nat) : State := s.waited j (j * s.cfg.poll.toNat)

theorem State.polled_zero (s : State) : s.polled 0 = s.setElapsed 0 := by
  simp [State.polled, State.waited, State.setElapsed, sampleEvents]

theorem State.polled_afterRead (s : State) (j : Nat) :
    (s.polled j).afterRead = s.waited (j + 1) (j * s.cfg.poll.toNat) := by
  simp [State.polled, State.waited, State.afterRead, sampleEvents, State.stream,
    List.getD_eq_getElem?_getD, Nat.add_assoc]

theorem State.polled_succ (s : State) (j : Nat) :
    (((s.polled j).afterRead.pass s.cfg.poll.toNat).setElapsed (j * s.cfg.poll.toNat + s.cfg.poll.toNat))
      = s.polled (j + 1) := by
  rw [State.polled_afterRead]
  simp [State.polled, State.waited, State.pass, State.setElapsed, Nat.add_mul, Nat.add_assoc]

/-- The loop from its `j`-th sample on. -/
theorem State.awaitLoop_eq (s : State) (expected : Bool) (timeout : U16) (hp : 1 ≤ s.cfg.poll.toNat) :
    ∀ (fuel j : Nat), j + fuel = s.cfg.maxSamples timeout →
      State.awaitLoop expected timeout (fuel + 1) (j * s.cfg.poll.toNat) (s.polled j) =
        match firstMatch s.stream expected fuel j with
        | some k => (.reached (BitVec.ofNat 16 ((j + k) * s.cfg.poll.toNat)),
            s.waited (j + k + 1) ((j + k) * s.cfg.poll.toNat))
        | none => (.timedOut, s.polled (s.cfg.maxSamples timeout))
  | 0, j, h => by
    obtain rfl : j = s.cfg.maxSamples timeout := by omega
    have hlt : timeout.toNat < s.cfg.maxSamples timeout * s.cfg.poll.toNat := by
      have := Config.mul_poll_le_iff hp timeout (s.cfg.maxSamples timeout)
      omega
    simp [State.awaitLoop, firstMatch, hlt]
  | fuel + 1, j, h => by
    have hle : ¬ timeout.toNat < j * s.cfg.poll.toNat := by
      have := Config.mul_poll_le_iff hp timeout j
      omega
    have hread : (s.polled j).stream 0 = s.stream j := by simp [State.polled]
    rw [State.awaitLoop]
    simp only [hle, if_false, State.pinRead, hread, firstMatch]
    by_cases hm : s.stream j = expected
    · simp [hm, State.polled_afterRead]
    · have hcfg : (s.polled j).cfg = s.cfg := rfl
      have ih := State.awaitLoop_eq s expected timeout hp fuel (j + 1) (by omega)
      simp only [hm, if_false, hcfg, State.polled_succ]
      rw [Nat.add_mul, Nat.one_mul] at ih
      rw [ih]
      cases firstMatch s.stream expected fuel (j + 1) with
      | none => rfl
      | some k => simp [Nat.add_assoc, Nat.add_comm 1 k]

/-- AWAIT in closed form (R93): everything it can do. -/
theorem State.await_eq (s : State) (expected : Bool) (timeout : U16) (hp : 1 ≤ s.cfg.poll.toNat) :
    s.await expected timeout =
      match firstMatch s.stream expected (s.cfg.maxSamples timeout) 0 with
      | some k => (.reached (BitVec.ofNat 16 (k * s.cfg.poll.toNat)),
          s.waited (k + 1) (k * s.cfg.poll.toNat))
      | none => (.timedOut, s.waited (s.cfg.maxSamples timeout)
          (s.cfg.maxSamples timeout * s.cfg.poll.toNat)) := by
  have h := State.awaitLoop_eq s expected timeout hp (s.cfg.maxSamples timeout) 0 (by omega)
  rw [Nat.zero_mul, State.polled_zero] at h
  rw [State.await, h]
  cases firstMatch s.stream expected (s.cfg.maxSamples timeout) 0 <;> simp [State.polled]

/-- The loop changes `elapsed`, the samples and the time, and nothing else, whatever the configuration. -/
theorem State.awaitLoop_frame (expected : Bool) (timeout : U16) :
    ∀ (fuel k : Nat) (s : State), ∃ e samples drawn tick log,
      (State.awaitLoop expected timeout fuel k s).2 =
        { s with blk := { s.blk with elapsed := e }, samples := samples, drawn := drawn, tick := tick, log := log }
  | 0, _, s => ⟨_, _, _, _, _, rfl⟩
  | fuel + 1, k, s => by
    rw [State.awaitLoop]
    by_cases h : timeout.toNat < k
    · rw [if_pos h]; exact ⟨_, _, _, _, _, rfl⟩
    · rw [if_neg h]
      by_cases hm : s.stream 0 = expected
      · simp only [State.pinRead, hm, if_true]; exact ⟨_, _, _, _, _, rfl⟩
      · simp only [State.pinRead, hm, if_false]
        obtain ⟨e, sm, d, t, l, ih⟩ := State.awaitLoop_frame expected timeout fuel (k + s.cfg.poll.toNat)
          ((s.afterRead.pass s.cfg.poll.toNat).setElapsed (k + s.cfg.poll.toNat))
        exact ⟨e, sm, d, t, l, ih⟩

/-- AWAIT changes `elapsed`, the samples and the time, and nothing else, whatever the configuration (R98). -/
theorem State.await_frame (s : State) (expected : Bool) (timeout : U16) :
    ∃ e samples drawn tick log, (s.await expected timeout).2 =
      { s with blk := { s.blk with elapsed := e }, samples := samples, drawn := drawn, tick := tick, log := log } :=
  State.awaitLoop_frame expected timeout _ 0 (s.setElapsed 0)

/-- AWAIT whose first match is sample `k`. -/
theorem State.await_of_firstAt {s : State} {expected : Bool} {timeout : U16} {k : Nat}
    (hp : 1 ≤ s.cfg.poll.toNat) (h : s.firstAt expected (s.cfg.maxSamples timeout) k) :
    s.await expected timeout = (.reached (BitVec.ofNat 16 (k * s.cfg.poll.toNat)),
      s.waited (k + 1) (k * s.cfg.poll.toNat)) := by
  rw [State.await_eq s expected timeout hp, (State.firstAt_iff ..).1 h]

/-- AWAIT that never matches. -/
theorem State.await_of_never {s : State} {expected : Bool} {timeout : U16} (hp : 1 ≤ s.cfg.poll.toNat)
    (h : s.never expected (s.cfg.maxSamples timeout)) :
    s.await expected timeout = (.timedOut, s.waited (s.cfg.maxSamples timeout)
      (s.cfg.maxSamples timeout * s.cfg.poll.toNat)) := by
  rw [State.await_eq s expected timeout hp, (State.never_iff ..).1 h]

/-- Either a sample is the first match, or none matches: the two cases of every wait. -/
theorem State.firstAt_or_never (s : State) (expected : Bool) (n : Nat) :
    (∃ k, s.firstAt expected n k) ∨ s.never expected n := by
  cases h : firstMatch s.stream expected n 0 with
  | some k => exact .inl ⟨k, (State.firstAt_iff ..).2 h⟩
  | none   => exact .inr ((State.never_iff ..).2 h)

/-- A waiting phase whose first match is sample `k` continues. -/
theorem State.waitPhase_of_firstAt {s : State} {expected : Bool} {timeout : U16} {f : Failure}
    {ok : U16 → State → State} {k : Nat} (hp : 1 ≤ s.cfg.poll.toNat)
    (h : s.firstAt expected (s.cfg.maxSamples timeout) k) :
    s.waitPhase expected timeout f ok = ok (BitVec.ofNat 16 (k * s.cfg.poll.toNat))
      (s.waited (k + 1) (k * s.cfg.poll.toNat)) := by
  simp [State.waitPhase, State.await_of_firstAt hp h]

/-- A waiting phase that never matches raises its failure. -/
theorem State.waitPhase_of_never {s : State} {expected : Bool} {timeout : U16} {f : Failure}
    {ok : U16 → State → State} (hp : 1 ≤ s.cfg.poll.toNat)
    (h : s.never expected (s.cfg.maxSamples timeout)) :
    s.waitPhase expected timeout f ok = (s.waited (s.cfg.maxSamples timeout)
      (s.cfg.maxSamples timeout * s.cfg.poll.toNat)).raise f := by
  simp [State.waitPhase, State.await_of_never hp h]

/-- A waiting phase, whatever the configuration: its continuation or its failure, from a state in which only
`elapsed`, the samples and the time have changed. -/
theorem State.waitPhase_frame (s : State) (expected : Bool) (timeout : U16) (f : Failure)
    (ok : U16 → State → State) :
    ∃ e samples drawn tick log,
      let u : State :=
        { s with blk := { s.blk with elapsed := e }, samples := samples, drawn := drawn, tick := tick, log := log }
      (∃ x, s.waitPhase expected timeout f ok = ok x u) ∨ s.waitPhase expected timeout f ok = u.raise f := by
  obtain ⟨e, sm, d, t, l, h⟩ := s.await_frame expected timeout
  refine ⟨e, sm, d, t, l, ?_⟩
  unfold State.waitPhase
  generalize s.await expected timeout = r at h
  obtain ⟨o, u⟩ := r
  obtain rfl : u = _ := h
  cases o with
  | reached x => exact .inl ⟨x, rfl⟩
  | timedOut  => exact .inr rfl

/-- A valid configuration polls at least once a tick. -/
theorem Config.one_le_poll {c : Config} (h : c.valid = true) : 1 ≤ c.poll.toNat := by
  simp only [Config.valid, Bool.and_eq_true, decide_eq_true_eq] at h
  exact h.1.1.1.1.1

end Sys2Proof.Machine
end

