-- ==== Sys2Proof/Laws/PerInstr.lean ====
section
/-! SUPPORT. Facts about every instruction as syntax, one lemma per constructor. The family `RowFormat`: an
instruction encodes into a word of its own row's format (30_encoding.md R60 and section 10). -/

namespace Sys2Proof.Laws.RowFormat

/-- The encoding of `i` is a word of `i`'s format, whatever the free bit `v` of a PHASE row. -/
def Statement (i : Instr) : Prop := ∀ v : Variant, (encode v i).format = i.format

theorem readRawV11 : Statement .readRawV11 := fun _ => rfl
theorem readRawV22 : Statement .readRawV22 := fun _ => rfl
theorem readFloatV11 : Statement .readFloatV11 := fun _ => rfl
theorem readFloatV22 : Statement .readFloatV22 := fun _ => rfl
theorem request : Statement .request := fun _ => rfl
theorem respLow : Statement .respLow := fun _ => rfl
theorem respHigh : Statement .respHigh := fun _ => rfl
theorem dataReady : Statement .dataReady := fun _ => rfl
theorem bitHi : Statement .bitHi := fun _ => rfl
theorem bitLo : Statement .bitLo := fun _ => rfl
theorem check : Statement .check := fun _ => rfl
theorem parse11 : Statement .parse11 := fun _ => rfl
theorem parse22 : Statement .parse22 := fun _ => rfl
theorem toFloat : Statement .toFloat := fun _ => rfl
theorem setdir (dir : Bool) : Statement (.setdir dir) := fun _ => rfl
theorem setlvl (level : Bool) : Statement (.setlvl level) := fun _ => rfl
theorem getlvl : Statement .getlvl := fun _ => rfl
theorem delay (n : U16) : Statement (.delay n) := fun _ => rfl
theorem await (expected : Bool) (timeout : U16) : Statement (.await expected timeout) := fun _ => rfl

end Sys2Proof.Laws.RowFormat
end

