-- ==== Sys2Proof/Laws/Step.lean ====
section
/-! SUPPORT. What a step can do, said once: the inversion of `step`, and the decoding of the words the
sequencer fetches. -/

namespace Sys2Proof.Machine

@[simp] theorem decode_phaseWord (v : Variant) (p : Phase) :
    decode (phaseWord v p.code) = decodeMicroOp v p := by
  cases v <;> cases p <;> rfl

@[simp] theorem decode_cmdBits (f : Fmt) (v : Variant) : decode (.cmd (cmdBits f v)) = .instr (commandOf f v) := by
  cases f <;> cases v <;> rfl

@[simp] theorem State.stream_latched (s : State) (k : Nat) : s.latched.stream k = s.stream k := rfl

/-- No instruction stops: every meaning answers a next state. -/
theorem exec_next (i : Instr) (s : State) : ∃ t, exec i s = .next t := by
  cases i <;> exact ⟨_, rfl⟩

/-- A step that goes on is one of three: reset wins, the sequencer waits, or an instruction ran. -/
theorem step_next {s t : State} (h : step s = .next t) :
    s.cfg.valid = true ∧
    ((∃ k u, s.nextInput.rst = some k ∧ t = s.latched.resetDuring k u ∧
        (u = s.latched ∨ ∃ w i, s.fetchWord = some w ∧ decode w = .instr i ∧
          exec i s.latched = .next u)) ∨
      (s.nextInput.rst = none ∧ s.fetchWord = none ∧ t = s.latched) ∨
      (s.nextInput.rst = none ∧ ∃ w i, s.fetchWord = some w ∧ decode w = .instr i ∧
        exec i s.latched = .next t)) := by
  unfold step at h
  split at h
  case isFalse => cases h
  case isTrue hv =>
    refine ⟨hv, ?_⟩
    cases hr : s.nextInput.rst with
    | none =>
      rw [hr] at h
      cases hw : s.fetchWord with
      | none =>
        rw [hw] at h
        exact .inr (.inl ⟨rfl, rfl, by simpa [State.underReset] using h.symm⟩)
      | some w =>
        rw [hw] at h
        cases hd : decode w with
        | instr i =>
          simp only [hd, State.underReset] at h
          exact .inr (.inr ⟨rfl, w, i, rfl, hd, h⟩)
        | rejected why => simp [hd, State.underReset] at h
    | some k =>
      rw [hr] at h
      refine .inl ⟨k, ?_⟩
      cases hw : s.fetchWord with
      | none =>
        rw [hw] at h
        exact ⟨s.latched, rfl, by simpa [State.underReset] using h.symm, .inl rfl⟩
      | some w =>
        rw [hw] at h
        cases hd : decode w with
        | instr i =>
          obtain ⟨u, hu⟩ := exec_next i s.latched
          simp only [hd, hu, State.underReset, Host.Outcome.next.injEq] at h
          exact ⟨u, rfl, h.symm, .inr ⟨w, i, rfl, hd, hu⟩⟩
        | rejected why =>
          simp only [hd, State.underReset, Host.Outcome.next.injEq] at h
          exact ⟨s.latched, rfl, h.symm, .inl rfl⟩

/-- One more step of a run of any machine, for a step that goes on. -/
theorem run_succ_of_next (M : Host.Core) (n : Nat) (s t : M.State) (h : M.step s = .next t) :
    M.run (n + 1) s = M.run n t := by
  rw [Host.Core.run, h]

/-- One more step of this machine's run, for a step that goes on. -/
theorem core_run_succ {n : Nat} {s t : State} (h : step s = .next t) :
    Host.Core.run Sys2Proof.core (n + 1) s = Host.Core.run Sys2Proof.core n t :=
  run_succ_of_next Sys2Proof.core n s t h

/-- One more step towards `Done`, for a step that goes on. -/
theorem runToDone_succ {n : Nat} {s t : State} (hd : s.blk.phase ≠ .done) (h : step s = .next t) :
    runToDone (n + 1) s = runToDone n t := by
  rw [runToDone, if_neg hd, h]

/-- In `Done` a run to `Done` stays. -/
theorem runToDone_done {n : Nat} {s : State} (hd : s.blk.phase = .done) : runToDone n s = .next s := by
  cases n <;> simp [runToDone, hd]

/-- Ready and busy are each other's negation (R19). -/
theorem Block.ready_eq_not_busy (b : Block) : b.ready = !b.busy := by
  simp [Block.ready, Block.busy, bne]

end Sys2Proof.Machine
end

