-- ==== Sys2Proof/Tests/Slice0.lean ====
section
/-! SUPPORT. Tests: the well-formedness smoke, the words of every row written out from the spec, one or two
small tests per instruction with the expected result taken from spec/95_test_vectors.md (its vector is named in
each docstring), and a witness for the hypotheses of every statement that has hypotheses. -/

open Sys2Proof Sys2Proof.Machine

namespace Sys2Proof.Tests

/-! ### Helpers -/

/-- A block in a phase, in an instance with the default configuration, with samples queued. -/
def inPhase (p : Phase) (samples : List Bool) : State :=
  { State.reset with blk := { Block.reset with phase := p }, samples := samples }

/-- A block in CHECK or PARSE with a frame of five bytes. -/
def withFrame (p : Phase) (f : Fmt) (b0 b1 b2 b3 b4 : Byte) : State :=
  { State.reset with blk := { Block.reset with phase := p, fmtQ := f, frame := b0 ++ b1 ++ b2 ++ b3 ++ b4 } }

/-- A block that captures bit `i`, its low phase measured. -/
def inBit (i : BitIdx) (low : U16) (frame : Frame) (samples : List Bool) : State :=
  { State.reset with
    blk := { Block.reset with phase := .bitLow, bitIdx := i, lowDur := low, frame := frame }
    samples := samples }

/-- What `f` sees of the next state, if the step goes on. -/
def seen {α : Type} (o : Host.Outcome State Fault Refusal) (f : State → α) : Option α :=
  match o with
  | .next t    => some (f t)
  | .fault _   => none
  | .refused _ => none

/-- The block's registers in the next state, if the step goes on. -/
def registers (o : Host.Outcome State Fault Refusal) : Option Block := seen o State.blk

/-- The caller asks for a command in the next step. -/
def asking (s : State) (cmd : BitVec 2) : State :=
  { s with inputs := [{ rst := none, start := true, cmd := cmd }] }

/-- The caller asserts reset `k` ticks into the next step. -/
def resetAt (s : State) (k : Nat) : State :=
  { s with inputs := [{ rst := some k, start := false, cmd := 0 }] }

/-- The block in `Done` with the Reading of vector VM5. -/
def doneWithReading : State :=
  { State.reset with blk := { Block.reset with
      phase := .done, fmtQ := .float, bitIdx := 39, resultValid := true, humTenths := 300, tempTenths := 250
      humF32 := 0x41F00000, tempF32 := 0x41C80000 } }

/-! ### Well-formedness -/

/-- The largest timeout of R7 with the default `POLL = 2` is 65533; 65534 and more are refused. -/
theorem test_wf_await_refuses_large_timeout :
    Instr.wf Config.default (.await true 65535) = false ∧ Instr.wf Config.default (.await false 65534) = false ∧
    Instr.wf Config.default (.await true 65533) = true ∧ Instr.wf Config.default (.await true 0) = true := by
  decide

theorem test_wf_other_operands_are_legal :
    Instr.wf Config.default (.delay 65535) = true ∧ Instr.wf Config.default (.setdir true) = true ∧
    Instr.wf Config.default .readFloatV22 = true := by decide

/-- R7: `POLL = 0` and a timeout above `65535 - POLL` are no instance of this block. -/
theorem test_config_outside_R7 :
    Config.default.valid = true ∧ { Config.default with poll := 0 }.valid = false ∧
    { Config.default with tBitLow := 65534 }.valid = false ∧
    { Config.default with tBitLow := 65533 }.valid = true := by decide

/-! ### Decoding: the words of 30_encoding.md, bit by bit -/

theorem test_decode_cmd_words :
    decode (.cmd 0b00) = .instr .readRawV11 ∧ decode (.cmd 0b01) = .instr .readRawV22 ∧
    decode (.cmd 0b10) = .instr .readFloatV11 ∧ decode (.cmd 0b11) = .instr .readFloatV22 := by decide

theorem test_decode_phase_words_v0 :
    decode (.phase 0b00001) = .instr .request ∧ decode (.phase 0b00010) = .instr .respLow ∧
    decode (.phase 0b00011) = .instr .respHigh ∧ decode (.phase 0b00100) = .instr .dataReady ∧
    decode (.phase 0b00101) = .instr .bitHi ∧ decode (.phase 0b00110) = .instr .bitLo ∧
    decode (.phase 0b00111) = .instr .check ∧ decode (.phase 0b01000) = .instr .parse11 ∧
    decode (.phase 0b01001) = .instr .toFloat := by decide

theorem test_decode_phase_words_v1 :
    decode (.phase 0b10001) = .instr .request ∧ decode (.phase 0b10010) = .instr .respLow ∧
    decode (.phase 0b10011) = .instr .respHigh ∧ decode (.phase 0b10100) = .instr .dataReady ∧
    decode (.phase 0b10101) = .instr .bitHi ∧ decode (.phase 0b10110) = .instr .bitLo ∧
    decode (.phase 0b10111) = .instr .check ∧ decode (.phase 0b11000) = .instr .parse22 ∧
    decode (.phase 0b11001) = .instr .toFloat := by decide

theorem test_decode_prim_words :
    decode (.prim ⟨0b001, true, 0⟩) = .instr (.setdir true) ∧
    decode (.prim ⟨0b010, false, 0⟩) = .instr (.setlvl false) ∧
    decode (.prim ⟨0b011, false, 0⟩) = .instr .getlvl ∧
    decode (.prim ⟨0b100, false, 20000⟩) = .instr (.delay 20000) ∧
    decode (.prim ⟨0b101, true, 85⟩) = .instr (.await true 85) := by decide

theorem test_decode_reserved_words :
    decode (.phase 0b01011) = .rejected .reservedPhase ∧ decode (.phase 0b11111) = .rejected .reservedPhase ∧
    decode (.phase 0b00000) = .rejected .noMicroOp ∧ decode (.phase 0b01010) = .rejected .noMicroOp ∧
    decode (.prim ⟨0b110, true, 1⟩) = .rejected .reservedPrim ∧
    decode (.prim ⟨0b111, false, 0⟩) = .rejected .reservedPrim ∧
    decode (.prim ⟨0b000, false, 0⟩) = .rejected .noRequest := by decide

/-- The rows by their bits and width, and a row's word running as the first instruction after reset. -/
theorem test_table_words :
    decodeTableWord 2 0b10 = some .readFloatV11 ∧ decodeTableWord 5 0b11000 = some .parse22 ∧
    decodeTableWord 3 0b101 = some (.await false 0) ∧ decodeTableWord 5 0b01011 = none ∧
    decodeTableWord 3 0b110 = none ∧ decodeTableWord 8 0b00001 = some .request ∧
    decodeTableWord 8 0 = some .readRawV11 := by decide

theorem test_fetch_word_runs_after_reset :
    seen (step (State.reset.withFetchWord 5 0b00001)) (fun t => t.blk.phase) = some .responseLow ∧
    seen (step (State.reset.withFetchWord 2 0b11)) (fun t => (t.blk.variantQ, t.blk.fmtQ)) =
      some (.v22, .float) ∧
    seen (step (State.reset.withFetchWord 3 0b001)) (fun t => t.blk.pinOe) = some false := by decide

/-! ### Commands (section 7, VM1 to VM10) -/

/-- VM2. -/
theorem test_accept_after_reset :
    registers (step (asking State.reset 0b10)) =
      some { Block.reset with phase := .request, fmtQ := .float, variantQ := .v11 } := by decide

/-- VM4: the previous failure leaves no trace. -/
theorem test_accept_clears_a_failure :
    registers (exec .readRawV11 { State.reset with
        blk := { Block.reset with phase := .done, status := .timeoutAwaitingBit, errIndex := 17 } }) =
      some { Block.reset with phase := .request } := by decide

/-- VM3: a `start` while busy is ignored. -/
theorem test_start_while_busy_is_ignored :
    (let s := { inPhase .bitHigh [true] with blk := { Block.reset with phase := .bitHigh, bitIdx := 12 } }
     registers (step (asking s 0b01)) =
       some { Block.reset with phase := .bitLow, bitIdx := 12, lowDur := 0 }) ∧
    registers (exec .readRawV22 (inPhase .bitHigh [])) = some (inPhase .bitHigh []).blk := by decide

/-- VM5: without `start` the result stays presented. -/
theorem test_result_is_held : registers (step doneWithReading) = some doneWithReading.blk := by decide

/-- VM10 and VM6's first step: READ_FLOAT.V22 and READ_RAW.V22 latch their two bits. -/
theorem test_commands_latch_their_fields :
    registers (exec .readFloatV22 State.reset) =
      some { Block.reset with phase := .request, fmtQ := .float, variantQ := .v22 } ∧
    registers (exec .readFloatV11 doneWithReading) =
      some { Block.reset with phase := .request, fmtQ := .float, variantQ := .v11 } ∧
    registers (exec .readRawV22 doneWithReading) =
      some { Block.reset with phase := .request, variantQ := .v22 } := by decide

/-! ### Reset -/

/-- VM7: reset 500 ticks into the low hold: driving stops at once. -/
theorem test_reset_in_the_low_hold :
    registers (step (resetAt (inPhase .request []) 500)) = some Block.reset ∧
    seen (step (resetAt (inPhase .request []) 500)) State.pinTrace =
      some [(0, true, false), (500, false, true)] := by decide

/-- VM8 and VM9. -/
theorem test_reset_elsewhere :
    registers (step (resetAt (inBit 30 48 0x2300150000 [true, true, false]) 1)) = some Block.reset ∧
    registers (step (resetAt doneWithReading 0)) = some Block.reset := by decide

/-! ### REQUEST -/

/-- The pin trace of section 7: ticks 0, 20000, 20030. -/
theorem test_request_pin_trace :
    seen (exec .request (inPhase .request [])) State.pinTrace =
      some [(0, true, false), (20000, true, true), (20030, false, true)] ∧
    seen (exec .request (inPhase .request [])) (fun t => (t.tick, t.drawn)) = some (20030, 0) := by decide

/-! ### The waiting phases: each stream is cut as section 1 of the vectors says -/

/-- R112's example: `H×10 L` succeeds after 11 samples, 20 ticks. -/
theorem test_resp_low :
    seen (exec .respLow (inPhase .responseLow (expandRuns [(true, 10), (false, 1)])))
      (fun t => (t.blk.phase, t.drawn, t.tick)) = some (.responseHigh, 11, 20) := by decide

/-- VF1: 43 highs, 86 ticks, status 1. -/
theorem test_resp_low_times_out :
    seen (exec .respLow (inPhase .responseLow (expandRuns [(true, 43)])))
      (fun t => (t.blk.outcome, t.drawn, t.tick)) =
      some (some (.err .timeoutAwaitingResponseLow), 43, 86) := by decide

/-- R113's example: `L×39 H` succeeds after 40 samples. -/
theorem test_resp_high :
    seen (exec .respHigh (inPhase .responseHigh (expandRuns [(false, 39), (true, 1)])))
      (fun t => (t.blk.phase, t.drawn, t.tick)) = some (.dataReady, 40, 78) := by decide

/-- VF2: status 2. -/
theorem test_resp_high_times_out :
    seen (exec .respHigh (inPhase .responseHigh (expandRuns [(false, 43)])))
      (fun t => (t.blk.status.code, t.blk.outcome)) =
      some (2, some (.err .timeoutAwaitingResponseHigh)) := by decide

/-- P1 step 4: `H×39 L`, 78 ticks, `bit_idx = 0`, `phase = BitHigh`. -/
theorem test_data_ready :
    seen (exec .dataReady { inPhase .dataReady (expandRuns [(true, 39), (false, 1)]) with tick := 20128 })
      (fun t => (t.blk.phase, t.blk.bitIdx, t.tick)) = some (.bitHigh, 0, 20206) := by decide

/-- VF3: status 3. -/
theorem test_data_ready_times_out :
    seen (exec .dataReady (inPhase .dataReady (expandRuns [(true, 43)])))
      (fun t => (t.blk.status.code, t.blk.errIndex)) = some (3, 0) := by decide

/-- R115's example: `L×24 H` gives `low_dur = 48`. -/
theorem test_bit_hi :
    seen (exec .bitHi (inPhase .bitHigh (expandRuns [(false, 24), (true, 1)])))
      (fun t => (t.blk.phase, t.blk.lowDur)) = some (.bitLow, 48) := by decide

/-- VF5: BIT_HI of bit 17 fails with index 17. -/
theorem test_bit_hi_times_out :
    seen (exec .bitHi { inPhase .bitHigh (expandRuns [(false, 43)]) with
        blk := { Block.reset with phase := .bitHigh, bitIdx := 17 } })
      (fun t => (t.blk.status.code, t.blk.errIndexCode, t.blk.outcome)) =
      some (4, 17, some (.err (.timeoutAwaitingBit 17))) := by decide

/-- P1, bit 3: `low_dur = 48`, `H×34 L`: `high_dur = 68`, `frame[36] = 1`; and R116's other example, a 0. -/
theorem test_bit_lo :
    seen (exec .bitLo (inBit 3 48 0 (expandRuns [(true, 34), (false, 1)])))
      (fun t => (t.blk.highDur, t.blk.frame, t.blk.bitIdx, t.blk.phase)) =
      some (68, 0x1000000000, 4, .bitHigh) ∧
    seen (exec .bitLo (inBit 3 48 0 (expandRuns [(true, 13), (false, 1)])))
      (fun t => (t.blk.highDur, t.blk.frame)) = some (26, 0) := by decide

/-- P1, bit 39: `frame = 0x1E00190037`, `bit_idx` stays 39, `phase = Check`; and VF6: its failure. -/
theorem test_bit_lo_last :
    seen (exec .bitLo (inBit 39 48 0x1E00190036 (expandRuns [(true, 34), (false, 1)])))
      (fun t => (t.blk.frame, t.blk.bitIdx, t.blk.phase)) = some (0x1E00190037, 39, .check) ∧
    seen (exec .bitLo (inBit 39 48 0x1E00190036 (expandRuns [(true, 43)])))
      (fun t => (t.blk.frame, t.blk.outcome)) = some (0, some (.err (.timeoutAwaitingBit 39))) := by decide

/-- VB1 to VB9, and section 4's values under `FixedThreshold(40)`. -/
theorem test_bit_decision :
    [(48, 26), (48, 68), (48, 48), (48, 50), (0, 0), (0, 2), (84, 84), (82, 84), (84, 68)].map
      (fun p : U16 × U16 => decideBit .relative p.1 p.2) =
      [false, true, false, true, false, true, false, true, false] ∧
    [(48, 26), (48, 68), (84, 68), (48, 40), (48, 42)].map
      (fun p : U16 × U16 => decideBit (.fixedThreshold 40) p.1 p.2) = [false, true, true, false, true] := by
  decide

/-- VK1, VK2, VK3, VK6, VK7. -/
theorem test_packing :
    setFrameBit 0 0 true = 0x8000000000 ∧ setFrameBit 0 39 true = 0x0000000001 ∧
    setFrameBit 0 16 true = 0x0000800000 ∧ setFrameBit 0 7 true = 0x0100000000 ∧
    setFrameBit 0 8 true = 0x0080000000 := by decide

/-- VH9: the shortest capture, 83 samples; and P3's stream: 43 samples. -/
theorem test_capture_function :
    (capture Config.default fun k => k % 2 == 1).pos = 83 ∧ (capture Config.default fun _ => true).pos = 43 := by
  decide

/-- R125: 3569 samples with the defaults; R211: REQUEST takes 20030 ticks. -/
theorem test_bounds : Config.default.maxDecodeSamples = 3569 ∧ Config.default.requestTicks = 20030 := by decide

/-! ### The payload -/

/-- VC2, VC4, VC6 pass; VC3, VC7 do not. -/
theorem test_check :
    registers (exec .check (withFrame .check .raw 35 0 21 0 56)) =
      some { (withFrame .check .raw 35 0 21 0 56).blk with phase := .parse } ∧
    seen (exec .check (withFrame .check .raw 0x80 0x80 0x80 0x80 0)) (fun t => t.blk.phase) = some .parse ∧
    seen (exec .check (withFrame .check .raw 255 255 255 255 252)) (fun t => t.blk.phase) = some .parse := by
  decide

theorem test_check_fails :
    registers (exec .check (withFrame .check .raw 35 0 21 0 57)) =
      some { Block.reset with phase := .done, status := .checksumMismatch } ∧
    seen (exec .check (withFrame .check .raw 0x80 0x80 0x80 0x80 2)) (fun t => t.blk.outcome) =
      some (some (.err .checksumMismatch)) := by decide

/-- VQ1 (READ_RAW) and VQ5 (READ_FLOAT). -/
theorem test_parse11 :
    registers (exec .parse11 (withFrame .parse .raw 35 0 21 0 56)) =
      some { Block.reset with phase := .done, resultValid := true, humTenths := 350, tempTenths := 210 } ∧
    seen (exec .parse11 (withFrame .parse .float 35 7 21 9 72))
      (fun t => (t.blk.phase, t.blk.humTenths, t.blk.tempTenths)) = some (.toFloat, 350, 210) := by decide

/-- VQ4 and VQ6: no sign handling. -/
theorem test_parse11_no_sign :
    seen (exec .parse11 (withFrame .parse .raw 255 255 255 255 252))
      (fun t => (t.blk.humTenths, t.blk.tempTenths)) = some (2550, 2550) ∧
    seen (exec .parse11 (withFrame .parse .raw 0 0 0x80 0 0x80)) (fun t => t.blk.tempTenths) = some 1280 := by
  decide

/-- VR1, VR2. -/
theorem test_parse22 :
    seen (exec .parse22 (withFrame .parse .raw 0x02 0x1C 0x01 0x04 0x23)) (fun t => t.blk.outcome) =
      some (some (.ok (.tenths 540 260))) ∧
    seen (exec .parse22 (withFrame .parse .raw 0x01 0x90 0x80 0x0A 0x1B))
      (fun t => (t.blk.outcome, t.blk.tempTenths)) = some (some (.ok (.tenths 400 (-10))), 0xFFF6) := by decide

/-- VR3 (negative zero), VR6, VR7, VR11. -/
theorem test_parse22_corners :
    seen (exec .parse22 (withFrame .parse .raw 0x01 0x90 0x80 0x00 0x11)) (fun t => t.blk.tempTenths) = some 0 ∧
    seen (exec .parse22 (withFrame .parse .raw 0xFF 0xFF 0xFF 0xFF 0xFC)) (fun t => t.blk.outcome) =
      some (some (.ok (.tenths (-1) (-32767)))) ∧
    seen (exec .parse22 (withFrame .parse .raw 0x80 0 0 0 0x80)) (fun t => t.blk.humTenths) = some 0x8000 ∧
    seen (exec .parse22 (withFrame .parse .raw 0 0 0x81 0 0x81)) (fun t => t.blk.tempTenths) = some 0xFF00 := by
  decide

/-- VT1: P1's last step. -/
theorem test_to_float :
    registers (exec .toFloat { State.reset with blk := { Block.reset with
        phase := .toFloat, fmtQ := .float, resultValid := true, humTenths := 300, tempTenths := 250
        frame := 0x1E00190037, bitIdx := 39 } }) = some doneWithReading.blk := by decide

/-- VT4, VT8, VT9, VT10 and rows of R150's table. -/
theorem test_rn32 :
    [400, -10, -1, -32767, -32768, 1000, 32767, 0, 1, 3, 25, -105, 655, 999].map rn32Tenths =
      [0x42200000, 0xBF800000, 0xBDCCCCCD, 0xC54CCB33, 0xC54CCCCD, 0x42C80000, 0x454CCB33, 0, 0x3DCCCCCD,
        0x3E99999A, 0x40200000, 0xC1280000, 0x42830000, 0x42C7CCCD] := by decide

/-- S2, S4 and S1's converse through the function of R146. -/
theorem test_parse_function :
    (match parse .v11 35 0 21 0 56 with | .ok r => r == (350, 210) | .error _ => false) = true ∧
    (match parse .v22 0x01 0x90 0x80 0x0A 0x1B with | .ok r => r == (400, -10) | .error _ => false) = true ∧
    (match parse .v22 1 0 0 0 0 with | .ok _ => false | .error e => e == .checksumMismatch) = true := by decide

/-! ### The primitives -/

/-- VP1, VP2. -/
theorem test_setdir :
    seen (exec (.setdir true) State.reset) (fun t => (t.blk.pinOe, t.blk.pinOut)) = some (true, true) ∧
    seen (exec (.setdir false) { State.reset with blk := { Block.reset with pinOe := true, pinOut := false } })
      (fun t => (t.blk.pinOe, t.blk.pinOut)) = some (false, false) := by decide

/-- VP3, VP4. -/
theorem test_setlvl :
    seen (exec (.setlvl true) { State.reset with blk := { Block.reset with pinOe := true, pinOut := false } })
      (fun t => (t.blk.pinOe, t.blk.pinOut)) = some (true, true) ∧
    registers (exec (.setlvl true) State.reset) = some Block.reset := by decide

/-- VP5. -/
theorem test_getlvl :
    seen (exec .getlvl { State.reset with samples := [false, true] })
      (fun t => (t.ret, t.samples, t.blk)) = some (.level false, [true], Block.reset) := by decide

/-- VP6, VP7. -/
theorem test_delay :
    seen (exec (.delay 0) State.reset) (fun t => t.tick) = some 0 ∧
    seen (exec (.delay 20000) State.reset) (fun t => (t.tick, t.drawn, t.blk)) =
      some (20000, 0, Block.reset) := by decide

/-- VA4 and VA5: the boundary of the default timeout. -/
theorem test_await_boundary :
    seen (exec (.await true 85) { State.reset with samples := expandRuns [(false, 42), (true, 1)] })
      (fun t => (t.ret, t.drawn, t.tick)) = some (.pulse (.reached 84), 43, 84) ∧
    seen (exec (.await true 85) { State.reset with samples := expandRuns [(false, 43), (true, 1)] })
      (fun t => (t.ret, t.drawn, t.tick, t.blk.elapsed)) = some (.pulse .timedOut, 43, 86, 86) := by decide

/-- VA8, VA9, VA11, VA12, VA13. -/
theorem test_await_small :
    seen (exec (.await true 84) { State.reset with samples := expandRuns [(false, 42), (true, 1)] })
      (fun t => t.ret) = some (.pulse (.reached 84)) ∧
    seen (exec (.await true 83) { State.reset with samples := expandRuns [(false, 42), (true, 1)] })
      (fun t => (t.ret, t.drawn)) = some (.pulse .timedOut, 42) ∧
    seen (exec (.await false 0) { State.reset with samples := [true] })
      (fun t => (t.ret, t.drawn, t.tick)) = some (.pulse .timedOut, 1, 2) ∧
    seen (exec (.await false 0) { State.reset with samples := [false] })
      (fun t => (t.ret, t.tick)) = some (.pulse (.reached 0), 0) ∧
    seen (exec (.await false 1) { State.reset with samples := [true, false] })
      (fun t => (t.ret, t.drawn)) = some (.pulse .timedOut, 1) := by decide

/-! ### Witnesses: concrete states that meet the hypotheses of the statements -/

/-- ResetFromEveryState; ResetCutsTheLowHoldShort at both ends of its range. -/
theorem witness_reset :
    (let s := resetAt doneWithReading 7; s.cfg.valid = true ∧ s.nextInput.rst = some 7) ∧
    (let s := resetAt (inPhase .request []) 1
     s.cfg.valid = true ∧ s.prim = PrimReq.none ∧ s.blk.phase = .request ∧ s.nextInput.rst = some 1 ∧
       0 < 1 ∧ 1 < s.cfg.tHoldLow.toNat) ∧
    (let s := resetAt (inPhase .request []) 19999
     s.nextInput.rst = some 19999 ∧ 19999 < s.cfg.tHoldLow.toNat) := by decide

/-- CommandIsAccepted, WaitingChangesNothing, OutcomeIsHeldUntilTheNextCommand: both waiting phases. -/
theorem witness_ready :
    State.reset.cfg.valid = true ∧ State.reset.prim = PrimReq.none ∧ State.reset.blk.phase = .idle ∧
    State.reset.nextInput.rst = none ∧ State.reset.nextInput.start = false ∧
    doneWithReading.cfg.valid = true ∧ doneWithReading.prim = PrimReq.none ∧
    doneWithReading.blk.phase = .done ∧ doneWithReading.nextInput.rst = none ∧
    doneWithReading.nextInput.start = false ∧
    (∀ inp ∈ { doneWithReading with inputs := [StepInput.quiet] }.inputs,
      inp.rst = none ∧ inp.start = false) := by decide

/-- StartIsIgnoredWhileBusy, both clauses. -/
theorem witness_busy :
    (asking (inPhase .bitHigh []) 0b01).blk.busy = true ∧
    (asking (inPhase .bitHigh []) 0b01).inputs = { rst := none, start := true, cmd := 0b01 } :: [] := by decide

/-- StepRunsTheDecodedInstruction, its three cases; PlacedWordRunsNext, the three formats. -/
theorem witness_step :
    (let s := inPhase .bitHigh []
     s.cfg.valid = true ∧ s.nextInput.rst = none ∧ s.prim.code = 0 ∧ s.blk.busy = true ∧
       decode (phaseWord s.blk.variantQ s.blk.phase.code) = .instr .bitHi) ∧
    (let s := asking State.reset 0b11
     s.cfg.valid = true ∧ s.nextInput.rst = none ∧ s.prim.code = 0 ∧ s.blk.busy = false ∧
       s.nextInput.start = true ∧ decode (.cmd s.nextInput.cmd) = .instr .readFloatV22) ∧
    (let s := { State.reset with prim := ⟨5, true, 85⟩ }
     s.cfg.valid = true ∧ s.nextInput.rst = none ∧ s.prim.code ≠ 0 ∧
       decode (.prim s.prim) = .instr (.await true 85)) ∧
    decodeTableWord 2 0b01 = some .readRawV22 ∧ decodeTableWord 5 0b10110 = some .bitLo ∧
    decodeTableWord 3 0b011 = some .getlvl := by decide

/-- StepRefusesOnlyWhatIsNotThisBlock: each clause, at codes 5, 6 and 7. -/
theorem witness_refusals :
    ({ State.reset with cfg := { Config.default with poll := 0 } } : State).cfg.valid = false ∧
    (let s : State := { State.reset with prim := ⟨6, false, 0⟩ }
     s.cfg.valid = true ∧ s.nextInput.rst = none ∧ 6 ≤ s.prim.code.toNat) ∧
    (let s : State := { State.reset with prim := ⟨5, false, 0⟩ }
     s.cfg.valid = true ∧ s.prim.code.toNat ≤ 5) ∧
    (let s : State := { resetAt State.reset 0 with prim := ⟨7, false, 0⟩ }
     s.cfg.valid = true ∧ s.nextInput.rst ≠ none) := by decide

/-- GetlvlReturnsTheNextSample's clause on queued samples. -/
theorem witness_getlvl : { State.reset with samples := [true, false] }.samples = true :: [false] := by decide

/-- The waits (AwaitFindsTheFirstMatch, AwaitIsBounded, and the five waiting phases, for both levels): the first
sample, the last that can match, and none. -/
theorem witness_wait_reached (e : Bool) :
    (inPhase .responseLow [e]).firstAt e 43 0 ∧
    (inPhase .responseLow (List.replicate 42 (!e) ++ [e])).firstAt e 43 42 := by
  cases e <;> exact ⟨⟨by decide, by decide, by decide⟩, ⟨by decide, by decide, by decide⟩⟩

theorem witness_wait_never (e : Bool) : (inPhase .responseLow (List.replicate 43 (!e))).never e 43 := by
  cases e <;> (unfold State.never; decide)

/-- With the default configuration 43 is `N(T)` for every one of the five timeouts, and `POLL` is positive. -/
theorem witness_wait_config :
    Config.default.valid = true ∧ 1 ≤ Config.default.poll.toNat ∧
    Config.default.maxSamples Config.default.tRespLow = 43 ∧
    Config.default.maxSamples Config.default.tRespHigh = 43 ∧
    Config.default.maxSamples Config.default.tDataStart = 43 ∧
    Config.default.maxSamples Config.default.tBitHigh = 43 ∧
    Config.default.maxSamples Config.default.tBitLow = 43 := by decide

/-- AwaitIsBounded's clauses on the answer: reached, timed out, and a timeout within R7. -/
theorem witness_await_answers :
    seen (exec (.await true 85) { State.reset with samples := [true] }) State.ret =
      some (.pulse (.reached 0)) ∧
    seen (exec (.await true 0) { State.reset with samples := [false] }) State.ret = some (.pulse .timedOut) ∧
    Instr.wf State.reset.cfg (.await true 65533) = true := by decide

/-- BitLoDecidesAndPacksTheBit at index 38 and 39; PackingWritesExactlyOneBit at the byte boundary 7, 8. -/
theorem witness_bit_index :
    (inBit 38 48 0 []).blk.bitIdx.val < 39 ∧ (inBit 39 48 0 []).blk.bitIdx = 39 ∧
    (inBit 39 48 0 []).cfg.valid = true ∧
    (0 : ByteIdx).val = (7 : BitIdx).val / 8 ∧ (1 : ByteIdx).val = (8 : BitIdx).val / 8 := by decide

/-- CheckComparesTheSumModulo256, both clauses, with a sum that wraps to 0 and one that misses by 2. -/
theorem witness_check :
    (withFrame .check .raw 0x80 0x80 0x80 0x80 0).blk.frame = 0x80#8 ++ 0x80#8 ++ 0x80#8 ++ 0x80#8 ++ 0#8 ∧
    (128 + 128 + 128 + 128) % 256 = (0#8).toNat ∧ (128 + 128 + 128 + 128) % 256 ≠ (2#8).toNat := by decide

/-- The two parsers: both formats, and the sign bit of `byte[2]` at 127 and 128. -/
theorem witness_parse :
    (withFrame .parse .raw 1 2 127 255 4).blk.frame = 1#8 ++ 2#8 ++ 127#8 ++ 255#8 ++ 4#8 ∧
    (withFrame .parse .raw 1 2 127 255 4).blk.fmtQ = .raw ∧ (127#8).toNat < 128 ∧
    (withFrame .parse .float 1 2 128 0 4).blk.frame = 1#8 ++ 2#8 ++ 128#8 ++ 0#8 ++ 4#8 ∧
    (withFrame .parse .float 1 2 128 0 4).blk.fmtQ = .float ∧ 128 ≤ (128#8).toNat := by decide

/-- QuotientIsTheNearestFloat: the ends of the range, and a finite competitor. -/
theorem witness_quotient :
    (-32768 : Int) ≤ -32768 ∧ (32767 : Int) ≤ 32767 ∧ f32Finite 0x454CCB33 = true ∧
    f32Finite 0x7F800000 = false := by decide

/-- RegistersChangeOnlyByTheirWriters, an instruction for each group of its clauses (a command, one that can fail,
one that cannot, a primitive); and CaptureIgnoresTheVariant. -/
theorem witness_next :
    (∃ t, exec .readRawV22 doneWithReading = .next t) ∧ Instr.readRawV22.format = .cmd ∧
    (∃ t, exec .check (withFrame .check .raw 35 0 21 0 57) = .next t) ∧
    Instr.check ∈ [Instr.respLow, .respHigh, .dataReady, .bitHi, .bitLo, .check] ∧
    (∃ t, exec .request (inPhase .request []) = .next t) ∧
    Instr.request ∉ [Instr.respLow, .respHigh, .dataReady, .bitHi, .bitLo, .check] ∧
    (∃ t, exec (.setdir true) State.reset = .next t) ∧ (Instr.setdir true).format = .prim ∧
    Instr.request ∈ [Instr.request, .respLow, .respHigh, .dataReady, .bitHi, .bitLo, .check] :=
  ⟨⟨_, rfl⟩, rfl, ⟨_, rfl⟩, by decide, ⟨_, rfl⟩, by decide, ⟨_, rfl⟩, rfl, by decide⟩

/-- PhaseAdvancesAsTheTableSays. -/
theorem witness_phase :
    (inPhase .bitLow []).cfg.valid = true ∧ (inPhase .bitLow []).prim = PrimReq.none ∧
    (inPhase .bitLow []).nextInput.rst = none ∧ (inPhase .bitLow []).blk.phase = .bitLow := by decide

/-- EveryStepKeepsTheInvariant and SamplesAreTakenOnlyInInputMode: a block in the middle of a capture, one bit
in, meets the invariant and has a next state. -/
theorem witness_invariant_capturing :
    (inBit 1 48 0x8000000000 [true, false]).Inv ∧ ∃ t, step (inBit 1 48 0x8000000000 [true, false]) = .next t := by
  refine ⟨⟨by decide, rfl, ?_, trivial⟩, _, rfl⟩
  refine ⟨by decide, by decide, by decide, by decide, by unfold Block.noReading; decide, by decide, by decide,
    by decide, by decide, ?_, by decide⟩
  intro _ j h1 h2
  have h1 : 1 ≤ j := h1
  interval_cases j <;> rfl

/-- The same for a block that presents a Reading. -/
theorem witness_invariant_done : doneWithReading.Inv ∧ ∃ t, step doneWithReading = .next t := by
  refine ⟨⟨by decide, rfl, ?_, trivial⟩, _, rfl⟩
  refine ⟨by decide, by decide, by decide, by decide, by unfold Block.noReading; decide, by decide, by decide,
    by decide, by decide, ?_, by decide⟩
  intro h
  rcases h with h | h <;> cases h

/-- The whole-decode statements: a fresh block and a block that still presents a Reading accept the same command,
with the same configuration and the same samples. -/
theorem witness_decode :
    (asking State.reset 0b01).Accepting .raw .v22 ∧ (asking State.reset 0b01).noReset ∧
    (asking doneWithReading 0b01).Accepting .raw .v22 ∧ (asking doneWithReading 0b01).noReset ∧
    (asking State.reset 0b01).cfg = (asking doneWithReading 0b01).cfg ∧
    ∀ k, (asking State.reset 0b01).stream k = (asking doneWithReading 0b01).stream k := by
  refine ⟨⟨?_, ?_, ?_, ?_, ?_⟩, ?_, ⟨?_, ?_, ?_, ?_, ?_⟩, ?_, ?_, fun _ => rfl⟩ <;>
    first
      | decide
      | (unfold State.noReset; decide)

/-- DecodeEndsWithinItsTimeouts' clause on a capture that succeeds: the stream of VH9. -/
theorem witness_capture_succeeds :
    (match (capture Config.default fun k => k % 2 == 1).result with
      | .ok f => f == 0 | .error _ => false) = true := by decide

end Sys2Proof.Tests
end

section
/-! The step, one equation per case: which outcome each way of selecting an instruction has. Then the scope
statements of 00_scope.md: where a step is refused (R7), and the optional fixed threshold (R8). -/

namespace Sys2Proof.Machine

/-! ### The words a step can select -/

/-- R72, R73: PRIM codes 6 and 7 are rejected as reserved. -/
theorem decode_prim_reserved {r : PrimReq} (h : 6 ≤ r.code.toNat) :
    decode (.prim r) = .rejected .reservedPrim := by
  simp only [decode, decodePrim]
  split
  case h_7 => rfl
  all_goals omega

/-- R73: PRIM codes 1 to 5 each request a primitive. -/
theorem decode_prim_instr {r : PrimReq} (h₀ : r.code ≠ 0) (h₅ : r.code.toNat ≤ 5) :
    ∃ i, decode (.prim r) = .instr i := by
  have hpos : r.code.toNat ≠ 0 := fun h => h₀ (BitVec.eq_of_toNat_eq h)
  have hcode : r.code.toNat = 1 ∨ r.code.toNat = 2 ∨ r.code.toNat = 3 ∨ r.code.toNat = 4 ∨
      r.code.toNat = 5 := by omega
  rcases hcode with h | h | h | h | h <;> simp [decode, decodePrim, h]

/-- R12: every phase but `Idle` and `Done` runs a micro-operation. -/
theorem decodeMicroOp_instr {b : Block} (h : b.ready = false) :
    ∃ i, decodeMicroOp b.variantQ b.phase = .instr i := by
  cases hp : b.phase
  case idle => simp [Block.ready, hp] at h
  case done => simp [Block.ready, hp] at h
  case parse => cases b.variantQ <;> exact ⟨_, rfl⟩
  all_goals exact ⟨_, rfl⟩

/-- An outstanding PRIM request is what the step looks at first (assumption 7). -/
theorem State.fetchWord_of_prim {s : State} (h : s.prim.code ≠ 0) :
    s.fetchWord = some (.prim s.prim) := if_pos h

/-- R61, R64, R73: unless the outstanding request is reserved, the word a step selects is an instruction. -/
theorem State.fetchWord_decodes {s : State} {w : CodeWord} (h : s.prim.code.toNat ≤ 5)
    (hw : s.fetchWord = some w) : ∃ i, decode w = .instr i := by
  unfold State.fetchWord at hw
  split at hw
  case isTrue hprim =>
    cases hw
    exact decode_prim_instr hprim h
  case isFalse =>
    split at hw
    case isTrue =>
      split at hw
      case isTrue =>
        cases hw
        exact ⟨_, rfl⟩
      case isFalse => cases hw
    case isFalse hbusy =>
      cases hw
      simpa using decodeMicroOp_instr (Bool.eq_false_iff.mpr hbusy)

/-! ### The outcome of a step -/

/-- R200: without reset the step does what it would have done. -/
@[simp] theorem State.underReset_none (s : State) (o : Host.Outcome State Fault Refusal) :
    s.underReset none o = o := rfl

/-- R200, R201: under reset every outcome, a refusal included, becomes a reset state. -/
theorem State.underReset_some (s : State) (k : Nat) (o : Host.Outcome State Fault Refusal) :
    ∃ t, s.underReset (some k) o = .next (s.resetDuring k t) := by
  cases o with
  | next t => exact ⟨t, rfl⟩
  | fault r => exact ⟨s, rfl⟩
  | refused r => exact ⟨s, rfl⟩

section StepEquations
variable {s : State}

/-- 93_implementation_defined.md U10: a configuration outside R7 is refused (assumption 12). -/
theorem step_of_invalid (hv : s.cfg.valid = false) : step s = .refused .invalidConfig := by
  simp [step, hv]

/-- R200, R201: reset wins over whatever the step would have done. -/
theorem step_of_reset {k : Nat} (hv : s.cfg.valid = true) (hr : s.nextInput.rst = some k) :
    ∃ t, step s = .next (s.latched.resetDuring k t) := by
  rw [step, if_pos hv, hr]
  exact State.underReset_some _ k _

/-- R160: with nothing selected, the step's inputs are used up and nothing else happens. -/
theorem step_of_waiting (hv : s.cfg.valid = true) (hr : s.nextInput.rst = none)
    (hw : s.fetchWord = none) : step s = .next s.latched := by
  simp [step, hv, hr, hw]

/-- R12, R160: without reset, a step runs the instruction it selects. -/
theorem step_of_instr {w : CodeWord} {i : Instr} (hv : s.cfg.valid = true)
    (hr : s.nextInput.rst = none) (hw : s.fetchWord = some w) (hd : decode w = .instr i) :
    step s = exec i s.latched := by
  simp [step, hv, hr, hw, hd]

/-- A selected word that is no instruction stops the step. -/
theorem step_of_rejected {w : CodeWord} {why : DecodeError} (hv : s.cfg.valid = true)
    (hr : s.nextInput.rst = none) (hw : s.fetchWord = some w) (hd : decode w = .rejected why) :
    step s = .refused .reservedPrim := by
  simp [step, hv, hr, hw, hd]

/-- R72, R73: a reserved PRIM request stops the step. -/
theorem step_of_reserved_prim (hv : s.cfg.valid = true) (hr : s.nextInput.rst = none)
    (h : 6 ≤ s.prim.code.toNat) : step s = .refused .reservedPrim := by
  have hcode : s.prim.code ≠ 0 := fun h₀ => by simp [h₀] at h
  exact step_of_rejected hv hr (State.fetchWord_of_prim hcode) (decode_prim_reserved h)

/-- Without reset, and without a reserved request, a step of a valid configuration goes on. -/
theorem step_next_of_legal_prim (hv : s.cfg.valid = true) (hr : s.nextInput.rst = none)
    (h : s.prim.code.toNat ≤ 5) : ∃ t, step s = .next t := by
  cases hw : s.fetchWord with
  | none => exact ⟨_, step_of_waiting hv hr hw⟩
  | some w =>
    obtain ⟨i, hd⟩ := State.fetchWord_decodes h hw
    rw [step_of_instr hv hr hw hd]
    exact exec_next i s.latched

end StepEquations

/-- Settles O14, from the equations of `step`: which case applies is decided by R7, by reset, and by the
outstanding PRIM request. -/
theorem stepRefusesOnlyWhatIsNotThisBlock : Obligations.StepRefusesOnlyWhatIsNotThisBlock := by
  intro s
  refine ⟨step_of_invalid, step_of_reserved_prim, fun hv h => ?_⟩
  cases hr : s.nextInput.rst with
  | none => exact step_next_of_legal_prim hv hr (h.resolve_right (absurd hr))
  | some k =>
    obtain ⟨t, ht⟩ := step_of_reset hv hr
    exact ⟨_, ht⟩

/-! ### The fixed threshold -/

/-- Settles O28: under the fixed threshold the low phase takes no part, and the comparison is that of
`decideFixed` (R124). -/
theorem fixedThresholdComparesTheHighPhase : Obligations.FixedThresholdComparesTheHighPhase := by
  intro k lo hi
  calc decideBit (.fixedThreshold k) lo hi = true
      ↔ decideFixed k hi = true := Iff.rfl
    _ ↔ k < hi.toNat := decide_eq_true_iff

end Sys2Proof.Machine
end

section
/-! What one instruction can do, said once. To the registers: the relation `Block.Moves`, one constructor per way
an instruction can end (R90 to R180). To everything else: `State.Evolves`, the configuration, the inputs and the
request kept, time and the pin trace only extended. The safety statements below are case analyses on these two. -/

namespace Sys2Proof

/-- The phase in which the sequencer runs a micro-operation (R12, R64); commands and primitives have none. -/
def Instr.microPhase : Instr → Option Phase
  | .request   => some .request
  | .respLow   => some .responseLow
  | .respHigh  => some .responseHigh
  | .dataReady => some .dataReady
  | .bitHi     => some .bitHigh
  | .bitLo     => some .bitLow
  | .check     => some .check
  | .parse11   => some .parse
  | .parse22   => some .parse
  | .toFloat   => some .toFloat
  | _          => none

/-- The failure a waiting micro-operation raises on a timeout while bit `idx` is captured (R176 to R179). -/
def Instr.waitFailure (idx : BitIdx) : Instr → Option Machine.Failure
  | .respLow   => some .timeoutAwaitingResponseLow
  | .respHigh  => some .timeoutAwaitingResponseHigh
  | .dataReady => some .timeoutAwaitingDataStart
  | .bitHi     => some (.timeoutAwaitingBit idx)
  | .bitLo     => some (.timeoutAwaitingBit idx)
  | _          => none

theorem microPhase_of_decodeMicroOp {v : Variant} {p : Phase} {i : Instr}
    (h : decodeMicroOp v p = .instr i) : i.microPhase = some p := by
  cases p <;> cases v <;> cases h <;> rfl

theorem Instr.format_of_microPhase {i : Instr} {p : Phase} (h : i.microPhase = some p) :
    i.format = .phase := by
  cases i <;> cases h <;> rfl

/-- R98: the five micro-operations that wait. -/
theorem Instr.mem_waits_of_waitFailure {i : Instr} {idx : BitIdx} {f : Machine.Failure}
    (h : i.waitFailure idx = some f) : i ∈ [Instr.respLow, .respHigh, .dataReady, .bitHi, .bitLo] := by
  cases i <;> cases h <;> decide

theorem Instr.format_of_waitFailure {i : Instr} {idx : BitIdx} {f : Machine.Failure}
    (h : i.waitFailure idx = some f) : i.format = .phase := by
  cases i <;> cases h <;> rfl

theorem Instr.format_of_parser {i : Instr} (h : i = .parse11 ∨ i = .parse22) : i.format = .phase := by
  rcases h with rfl | rfl <;> rfl

/-- R175: the six instructions that can fail are micro-operations. -/
theorem Instr.format_of_canFail {i : Instr}
    (h : i ∈ [Instr.respLow, .respHigh, .dataReady, .bitHi, .bitLo, .check]) : i.format = .phase := by
  fin_cases h <;> rfl

end Sys2Proof

namespace Sys2Proof.Machine

/-! ### The registers -/

/-- Everything instruction `i` can make of the registers `b` under the bit rule `rule`: each way it can end, with
what the samples decide (`e`, `x`) left open. -/
inductive Block.Moves (rule : BitRule) (b : Block) : Instr → Block → Prop
  /-- R160: a ready sequencer accepts a command. -/
  | accept {i : Instr} (f : Fmt) (v : Variant) (hi : i.format = .cmd) : b.Moves rule i (b.accept f v)
  /-- R165: a busy one ignores it. -/
  | ignore {i : Instr} (hi : i.format = .cmd) (hb : b.ready = false) : b.Moves rule i b
  /-- R111. -/
  | request : b.Moves rule .request { b with pinOe := false, pinOut := true, phase := .responseLow }
  /-- R112. -/
  | respLow (e : U16) : b.Moves rule .respLow { b with elapsed := e, phase := .responseHigh }
  /-- R113. -/
  | respHigh (e : U16) : b.Moves rule .respHigh { b with elapsed := e, phase := .dataReady }
  /-- R114. -/
  | dataReady (e : U16) : b.Moves rule .dataReady { b with elapsed := e, bitIdx := 0, phase := .bitHigh }
  /-- R115. -/
  | bitHi (e x : U16) : b.Moves rule .bitHi { b with elapsed := e, lowDur := x, phase := .bitLow }
  /-- R116: a bit with another one to come. -/
  | nextBit (e x : U16) (h : b.bitIdx.val < 39) : b.Moves rule .bitLo { b with
      elapsed := e, highDur := x, frame := setFrameBit b.frame b.bitIdx (decideBit rule b.lowDur x)
      bitIdx := ⟨b.bitIdx.val + 1, by omega⟩, phase := .bitHigh }
  /-- R116: the last bit. -/
  | lastBit (e x : U16) (h : b.bitIdx = 39) : b.Moves rule .bitLo { b with
      elapsed := e, highDur := x, frame := setFrameBit b.frame b.bitIdx (decideBit rule b.lowDur x)
      phase := .check }
  /-- R140: the checksum is right. -/
  | check (h : csOk b.frame = true) : b.Moves rule .check { b with phase := .parse }
  /-- R140, R181: it is wrong. -/
  | mismatch : b.Moves rule .check (b.raise .checksumMismatch)
  /-- R176 to R180: a wait timed out. -/
  | timeout {i : Instr} {f : Failure} (e : U16) (hf : i.waitFailure b.bitIdx = some f) :
      b.Moves rule i ({ b with elapsed := e }.raise f)
  /-- R141, R142 for READ_FLOAT. -/
  | parseFloat {i : Instr} (hum temp : U16) (hi : i = .parse11 ∨ i = .parse22) (hf : b.fmtQ = .float) :
      b.Moves rule i { b with humTenths := hum, tempTenths := temp, resultValid := true, phase := .toFloat }
  /-- R141, R142 for READ_RAW. -/
  | parseRaw {i : Instr} (hum temp : U16) (hi : i = .parse11 ∨ i = .parse22) (hf : b.fmtQ = .raw) :
      b.Moves rule i { b with
        humTenths := hum, tempTenths := temp, resultValid := true, frame := 0, phase := .done }
  /-- R150. -/
  | toFloat (hum temp : F32) :
      b.Moves rule .toFloat { b with humF32 := hum, tempF32 := temp, frame := 0, phase := .done }
  /-- R90. -/
  | setdir (dir : Bool) : b.Moves rule (.setdir dir) { b with pinOe := dir }
  /-- R91. -/
  | setlvl (level : Bool) : b.Moves rule (.setlvl level) { b with pinOut := level }
  /-- R95. -/
  | getlvl : b.Moves rule .getlvl b
  /-- R96. -/
  | delay (n : U16) : b.Moves rule (.delay n) b
  /-- R92, R98. -/
  | await (expected : Bool) (timeout e : U16) : b.Moves rule (.await expected timeout) { b with elapsed := e }

theorem State.command_moves {s : State} {rule : BitRule} {i : Instr} (f : Fmt) (v : Variant)
    (hi : i.format = .cmd) : s.blk.Moves rule i (s.command f v).blk := by
  unfold State.command
  split
  case isTrue => exact .accept f v hi
  case isFalse hb => exact .ignore hi (Bool.eq_false_iff.mpr hb)

/-- A waiting micro-operation fails, or goes on as its continuation does from a state in which the wait has changed
`elapsed` and no other register (R98). -/
theorem State.waitPhase_moves {s : State} {rule : BitRule} {i : Instr} {expected : Bool} {timeout : U16}
    {f : Failure} {ok : U16 → State → State} (hf : i.waitFailure s.blk.bitIdx = some f)
    (hok : ∀ x e samples drawn tick log, s.blk.Moves rule i (ok x { s with
      blk := { s.blk with elapsed := e }, samples := samples, drawn := drawn, tick := tick, log := log }).blk) :
    s.blk.Moves rule i (s.waitPhase expected timeout f ok).blk := by
  obtain ⟨e, samples, drawn, tick, log, ⟨x, h⟩ | h⟩ := s.waitPhase_frame expected timeout f ok
  · rw [h]; exact hok x e samples drawn tick log
  · rw [h]; exact .timeout e hf

theorem Block.bitDone_moves (b : Block) (rule : BitRule) (e x : U16) :
    b.Moves rule .bitLo ({ b with elapsed := e }.bitDone rule x) := by
  by_cases h : b.bitIdx.val < 39
  · simpa [Block.bitDone, h] using Block.Moves.nextBit e x h
  · have hlast : b.bitIdx = 39 := Fin.ext (by simp; omega)
    simpa [Block.bitDone, hlast] using Block.Moves.lastBit (rule := rule) e x hlast

theorem State.present_moves {s : State} {rule : BitRule} {i : Instr} (hum temp : U16)
    (hi : i = .parse11 ∨ i = .parse22) : s.blk.Moves rule i (s.present hum temp).blk := by
  unfold State.present
  split
  case h_1 hf => exact .parseFloat hum temp hi hf
  case h_2 hf => exact .parseRaw hum temp hi hf

/-- `Block.Moves` holds of every instruction, in every configuration. -/
theorem exec_moves {i : Instr} {s t : State} (h : exec i s = .next t) :
    s.blk.Moves s.cfg.bitRule i t.blk := by
  cases i <;> cases h
  case readRawV11 | readRawV22 | readFloatV11 | readFloatV22 => exact State.command_moves _ _ rfl
  case request => exact .request
  case respLow => exact State.waitPhase_moves rfl fun _ e _ _ _ _ => .respLow e
  case respHigh => exact State.waitPhase_moves rfl fun _ e _ _ _ _ => .respHigh e
  case dataReady => exact State.waitPhase_moves rfl fun _ e _ _ _ _ => .dataReady e
  case bitHi => exact State.waitPhase_moves rfl fun x e _ _ _ _ => .bitHi e x
  case bitLo => exact State.waitPhase_moves rfl fun x e _ _ _ _ => s.blk.bitDone_moves _ e x
  case check =>
    split
    case isTrue hc => exact .check hc
    case isFalse => exact .mismatch
  case parse11 => exact State.present_moves _ _ (.inl rfl)
  case parse22 => exact State.present_moves _ _ (.inr rfl)
  case toFloat => exact .toFloat _ _
  case setdir dir => exact .setdir dir
  case setlvl level => exact .setlvl level
  case getlvl => exact .getlvl
  case delay n => exact .delay n
  case await expected timeout =>
    obtain ⟨e, samples, drawn, tick, log, hw⟩ := s.await_frame expected timeout
    simp only [hw]
    exact .await expected timeout e

/-! ### The rest of the state -/

/-- The pin actions of a state stand in program order, none after the present tick. -/
abbrev State.Ordered (s : State) : Prop := logOrdered s.log s.tick

/-- `t` comes after `s` within one step: the configuration, the queued inputs and the request are kept, and time
and the pin trace are extended in program order (R26, R43, R49). -/
structure State.Evolves (s t : State) : Prop where
  cfg     : t.cfg = s.cfg
  inputs  : t.inputs = s.inputs
  prim    : t.prim = s.prim
  tick    : s.tick ≤ t.tick
  log     : s.log <:+ t.log
  ordered : s.Ordered → t.Ordered

theorem logOrdered.mono {l : List Event} {m n : Nat} (h : logOrdered l m) (hmn : m ≤ n) : logOrdered l n := by
  cases l with
  | nil => trivial
  | cons e l => exact ⟨h.1.trans hmn, h.2⟩

namespace State.Evolves
variable {s t u : State}

theorem trans (h : s.Evolves t) (h' : t.Evolves u) : s.Evolves u where
  cfg     := h'.cfg.trans h.cfg
  inputs  := h'.inputs.trans h.inputs
  prim    := h'.prim.trans h.prim
  tick    := h.tick.trans h'.tick
  log     := h.log.trans h'.log
  ordered := h'.ordered ∘ h.ordered

/-- Writing registers, or what a primitive returns, is no pin action and takes no time. -/
theorem write (s : State) (b : Block) (r : PrimResult) : s.Evolves { s with blk := b, ret := r } :=
  ⟨rfl, rfl, rfl, le_rfl, List.suffix_rfl, id⟩

theorem refl (s : State) : s.Evolves s := write s s.blk s.ret

theorem pass (s : State) (n : Nat) : s.Evolves (s.pass n) :=
  ⟨rfl, rfl, rfl, Nat.le_add_right _ _, List.suffix_rfl, fun h => h.mono (Nat.le_add_right _ _)⟩

theorem pinDrive (s : State) (oe out : Bool) : s.Evolves (s.pinDrive oe out) :=
  ⟨rfl, rfl, rfl, le_rfl, List.suffix_cons _ _, fun h => ⟨le_rfl, h⟩⟩

theorem afterRead (s : State) : s.Evolves s.afterRead :=
  ⟨rfl, rfl, rfl, le_rfl, List.suffix_cons _ _, fun h => ⟨le_rfl, h⟩⟩

theorem setElapsed (s : State) (e : Nat) : s.Evolves (s.setElapsed e) := write s _ s.ret

theorem goto (s : State) (p : Phase) : s.Evolves (s.goto p) := write s _ s.ret

theorem enterDone (s : State) : s.Evolves s.enterDone := write s _ s.ret

theorem raise (s : State) (f : Failure) : s.Evolves (s.raise f) := write s _ s.ret

theorem command (s : State) (f : Fmt) (v : Variant) : s.Evolves (s.command f v) := by
  unfold State.command
  split
  case isTrue => exact write s _ s.ret
  case isFalse => exact refl s

theorem present (s : State) (hum temp : U16) : s.Evolves (s.present hum temp) := by
  unfold State.present
  split <;> exact write s _ s.ret

theorem awaitLoop (expected : Bool) (timeout : U16) :
    ∀ (fuel e : Nat) (s : State), s.Evolves (State.awaitLoop expected timeout fuel e s).2
  | 0, _, s => refl s
  | fuel + 1, e, s => by
    simp only [State.awaitLoop, State.pinRead]
    by_cases hover : timeout.toNat < e
    · simpa only [hover, if_true] using refl s
    by_cases hmatch : s.stream 0 = expected
    · simpa only [hover, hmatch, if_true, if_false] using afterRead s
    · simp only [hover, hmatch, if_false]
      exact (afterRead s).trans <| (pass _ _).trans <| (setElapsed _ _).trans <|
        awaitLoop expected timeout fuel _ _

theorem await (s : State) (expected : Bool) (timeout : U16) : s.Evolves (s.await expected timeout).2 :=
  (setElapsed s 0).trans (awaitLoop ..)

theorem waitPhase (s : State) {expected : Bool} {timeout : U16} {f : Failure} {ok : U16 → State → State}
    (hok : ∀ x (u : State), u.Evolves (ok x u)) : s.Evolves (s.waitPhase expected timeout f ok) := by
  have h := await s expected timeout
  unfold State.waitPhase
  generalize s.await expected timeout = answer at h
  obtain ⟨x | -, u⟩ := answer
  · exact h.trans (hok x u)
  · exact h.trans (raise u f)

end State.Evolves

/-- Every instruction extends time and the pin trace in order, and writes neither the configuration nor what
reaches the block from outside. -/
theorem exec_evolves {i : Instr} {s t : State} (h : exec i s = .next t) : s.Evolves t := by
  cases i <;> cases h
  case readRawV11 | readRawV22 | readFloatV11 | readFloatV22 => exact .command s _ _
  case request =>
    exact (State.Evolves.pinDrive s _ _).trans <| (State.Evolves.pass _ _).trans <|
      (State.Evolves.pinDrive _ _ _).trans <| (State.Evolves.pass _ _).trans <|
      (State.Evolves.pinDrive _ _ _).trans (State.Evolves.goto _ _)
  case respLow | respHigh => exact .waitPhase s fun _ u => .goto u _
  case dataReady | bitHi | bitLo => exact .waitPhase s fun _ u => .write u _ u.ret
  case check =>
    split
    case isTrue => exact .goto s _
    case isFalse => exact .raise s _
  case parse11 | parse22 => exact .present s _ _
  case toFloat => exact .write s _ s.ret
  case setdir | setlvl => exact (State.Evolves.pinDrive s _ _).trans (.write _ _ _)
  case getlvl => exact (State.Evolves.afterRead s).trans (.write _ _ _)
  case delay => exact (State.Evolves.pass s _).trans (.write _ _ _)
  case await => exact (State.Evolves.await s _ _).trans (.write _ _ _)

end Sys2Proof.Machine
end

section
/-! Who may change which register: one lemma per register or group of registers, read off `Block.Moves`. -/

namespace Sys2Proof.Machine

theorem Failure.status_ne_ok (f : Failure) : f.status ≠ .ok := by
  cases f <;> exact nofun

namespace Block.Moves
variable {rule : BitRule} {b b' : Block} {i : Instr}

/-- R160, R165. -/
theorem of_cmd (h : b.Moves rule i b') (hi : i.format = .cmd) : b' = b ∨ ∃ f v, b' = b.accept f v := by
  cases h with
  | accept f v _ => exact .inr ⟨f, v, rfl⟩
  | ignore _ _ => exact .inl rfl
  | timeout e hf => nomatch (Instr.format_of_waitFailure hf).symm.trans hi
  | parseFloat hum temp hp | parseRaw hum temp hp => nomatch (Instr.format_of_parser hp).symm.trans hi
  | _ => cases hi

/-- R11: only a command latches the variant and the format. -/
theorem latches_eq (h : b.Moves rule i b') (hi : i.format ≠ .cmd) :
    b'.variantQ = b.variantQ ∧ b'.fmtQ = b.fmtQ := by
  cases h
  case accept hc => exact absurd hc hi
  all_goals exact ⟨rfl, rfl⟩

/-- R18, R202: the direction of the pin. -/
theorem pinOe_eq (h : b.Moves rule i b') (hr : i ≠ .request) (hs : ∀ d, i ≠ .setdir d) :
    b'.pinOe = b.pinOe := by
  cases h
  case request => exact absurd rfl hr
  case setdir d => exact absurd rfl (hs d)
  all_goals rfl

/-- R18, R202: the level of the pin. -/
theorem pinOut_eq (h : b.Moves rule i b') (hr : i ≠ .request) (hs : ∀ l, i ≠ .setlvl l) :
    b'.pinOut = b.pinOut := by
  cases h
  case request => exact absurd rfl hr
  case setlvl l => exact absurd rfl (hs l)
  all_goals rfl

/-- R13. -/
theorem bitIdx_eq (h : b.Moves rule i b') (hi : i.format ≠ .cmd) (hd : i ≠ .dataReady) (hl : i ≠ .bitLo) :
    b'.bitIdx = b.bitIdx := by
  cases h
  case accept hc => exact absurd hc hi
  case dataReady => exact absurd rfl hd
  case nextBit | lastBit => exact absurd rfl hl
  all_goals rfl

/-- R15: the low phase. -/
theorem lowDur_eq (h : b.Moves rule i b') (hi : i.format ≠ .cmd) (hh : i ≠ .bitHi) :
    b'.lowDur = b.lowDur := by
  cases h
  case accept hc => exact absurd hc hi
  case bitHi => exact absurd rfl hh
  all_goals rfl

/-- R15: the high phase. -/
theorem highDur_eq (h : b.Moves rule i b') (hi : i.format ≠ .cmd) (hl : i ≠ .bitLo) :
    b'.highDur = b.highDur := by
  cases h
  case accept hc => exact absurd hc hi
  case nextBit | lastBit => exact absurd rfl hl
  all_goals rfl

/-- R14: `elapsed` is written by the waits alone. -/
theorem elapsed_eq (h : b.Moves rule i b') (hi : i.format ≠ .cmd)
    (hw : i ∉ [Instr.respLow, .respHigh, .dataReady, .bitHi, .bitLo]) (ha : ∀ e n, i ≠ .await e n) :
    b'.elapsed = b.elapsed := by
  cases h with
  | accept f v hc => exact absurd hc hi
  | await expected timeout e => exact absurd rfl (ha expected timeout)
  | timeout e hf => exact absurd (Instr.mem_waits_of_waitFailure hf) hw
  | respLow | respHigh | dataReady | bitHi | nextBit | lastBit => simp at hw
  | _ => rfl

/-- R20, R21, R180: one of the six instructions that can fail goes to `Done` with a failure and nothing surfaced,
or leaves status and results alone. -/
theorem of_canFail (h : b.Moves rule i b')
    (hi : i ∈ [Instr.respLow, .respHigh, .dataReady, .bitHi, .bitLo, .check]) :
    (b'.status ≠ .ok ∧ b'.phase = .done ∧ b'.frame = 0 ∧ b'.noReading) ∨
      (b'.status = b.status ∧ b'.errIndex = b.errIndex ∧ b'.resultValid = b.resultValid ∧
        b'.humTenths = b.humTenths ∧ b'.tempTenths = b.tempTenths ∧ b'.humF32 = b.humF32 ∧
        b'.tempF32 = b.tempF32 ∧ (i ≠ .bitLo → b'.frame = b.frame)) := by
  cases h with
  | timeout e hf => exact .inl ⟨Failure.status_ne_ok _, rfl, rfl, rfl, rfl, rfl, rfl, rfl⟩
  | mismatch => exact .inl ⟨Failure.status_ne_ok .checksumMismatch, rfl, rfl, rfl, rfl, rfl, rfl, rfl⟩
  | respLow | respHigh | dataReady | bitHi | check =>
    exact .inr ⟨rfl, rfl, rfl, rfl, rfl, rfl, rfl, fun _ => rfl⟩
  | nextBit | lastBit => exact .inr ⟨rfl, rfl, rfl, rfl, rfl, rfl, rfl, fun hl => absurd rfl hl⟩
  | accept f v hc => nomatch hc.symm.trans (Instr.format_of_canFail hi)
  | ignore hc => nomatch hc.symm.trans (Instr.format_of_canFail hi)
  | parseFloat hum temp hp | parseRaw hum temp hp => rcases hp with rfl | rfl <;> simp at hi
  | _ => simp at hi

/-- R16, R22 to R25, R168: of the other micro-operations and the primitives, the parsers write the integer results,
TOFLOAT the float results, and the frame is cleared only with the step into `Done`. -/
theorem of_cannotFail (h : b.Moves rule i b') (hi : i.format ≠ .cmd)
    (hn : i ∉ [Instr.respLow, .respHigh, .dataReady, .bitHi, .bitLo, .check]) :
    b'.status = b.status ∧ b'.errIndex = b.errIndex ∧
      (i ≠ .parse11 → i ≠ .parse22 → b'.resultValid = b.resultValid ∧
        b'.humTenths = b.humTenths ∧ b'.tempTenths = b.tempTenths) ∧
      (i ≠ .toFloat → b'.humF32 = b.humF32 ∧ b'.tempF32 = b.tempF32) ∧
      (b'.frame = b.frame ∨
        (i ∈ [Instr.parse11, .parse22, .toFloat] ∧ b'.frame = 0 ∧ b'.phase = .done)) := by
  cases h with
  | accept f v hc => exact absurd hc hi
  | ignore hc => exact absurd hc hi
  | timeout e hf => exact absurd (List.mem_append_left [Instr.check] (Instr.mem_waits_of_waitFailure hf)) hn
  | parseFloat _ _ hp =>
    exact ⟨rfl, rfl, fun h₁ h₂ => (hp.elim h₁ h₂).elim, fun _ => ⟨rfl, rfl⟩, .inl rfl⟩
  | parseRaw _ _ hp =>
    have hmem : i ∈ [Instr.parse11, .parse22, .toFloat] := by rcases hp with rfl | rfl <;> simp
    exact ⟨rfl, rfl, fun h₁ h₂ => (hp.elim h₁ h₂).elim, fun _ => ⟨rfl, rfl⟩, .inr ⟨hmem, rfl, rfl⟩⟩
  | toFloat =>
    exact ⟨rfl, rfl, fun _ _ => ⟨rfl, rfl, rfl⟩, fun h => absurd rfl h, .inr ⟨by simp, rfl, rfl⟩⟩
  | request | setdir | setlvl | getlvl | delay | await =>
    exact ⟨rfl, rfl, fun _ _ => ⟨rfl, rfl, rfl⟩, fun _ => ⟨rfl, rfl⟩, .inl rfl⟩
  | _ => simp at hn

/-- R73, R90 to R98: a primitive changes the pin registers and `elapsed` at most. -/
theorem of_prim (h : b.Moves rule i b') (hi : i.format = .prim) :
    b' = { b with pinOe := b'.pinOe, pinOut := b'.pinOut, elapsed := b'.elapsed } := by
  cases h with
  | setdir | setlvl | getlvl | delay | await => rfl
  | accept f v hc => nomatch hc.symm.trans hi
  | ignore hc => nomatch hc.symm.trans hi
  | timeout e hf => nomatch (Instr.format_of_waitFailure hf).symm.trans hi
  | parseFloat hum temp hp | parseRaw hum temp hp => nomatch (Instr.format_of_parser hp).symm.trans hi
  | _ => nomatch hi

end Block.Moves

/-- Settles O37: what the instruction keeps outside the registers is `exec_evolves`, and each clause on the
registers is read off `exec_moves`. -/
theorem registersChangeOnlyByTheirWriters : Obligations.RegistersChangeOnlyByTheirWriters := by
  intro i s t h
  have hm := exec_moves h
  have he := exec_evolves h
  exact ⟨he.cfg, he.inputs, he.prim, hm.of_cmd, hm.latches_eq, hm.pinOe_eq, hm.pinOut_eq, hm.bitIdx_eq,
    hm.elapsed_eq, hm.lowDur_eq, hm.highDur_eq, hm.of_canFail, hm.of_cannotFail, hm.of_prim⟩

end Sys2Proof.Machine
end

section
/-! Which instruction a step runs (R12, R160), and the steps of the sequencer: the table of `phase`. -/

namespace Sys2Proof.Machine

/-! ### The selected word -/

/-- R61: `cmd` always names one of the four commands. -/
theorem decodeCmd_eq_commandOf (bits : BitVec 2) : ∃ f v, decodeCmd bits = commandOf f v := by
  unfold decodeCmd
  split
  · exact ⟨.raw, .v11, rfl⟩
  · exact ⟨.raw, .v22, rfl⟩
  · exact ⟨.float, .v11, rfl⟩
  · exact ⟨.float, .v22, rfl⟩

@[simp] theorem commandOf_format (f : Fmt) (v : Variant) : (commandOf f v).format = .cmd := by
  cases f <;> cases v <;> rfl

@[simp] theorem exec_commandOf (f : Fmt) (v : Variant) (s : State) :
    exec (commandOf f v) s = .next (s.command f v) := by
  cases f <;> cases v <;> rfl

/-- R73: PRIM code 0 requests no primitive. -/
theorem code_ne_zero_of_decode_prim {r : PrimReq} {i : Instr} (h : decode (.prim r) = .instr i) :
    r.code ≠ 0 := by
  intro h₀
  simp [decode, decodePrim, h₀] at h

/-- R12: `Idle` and `Done` run no micro-operation. -/
theorem Block.ready_of_microOp {b : Block} {i : Instr} (h : decodeMicroOp b.variantQ b.phase = .instr i) :
    b.ready = false := by
  cases hp : b.phase
  case idle | done => simp [hp, decodeMicroOp] at h
  all_goals simp [Block.ready, hp]

section
variable {s : State} {i : Instr}

/-- R160: a ready sequencer with `start` selects the command on `cmd`. -/
theorem State.fetchWord_of_start (hp : s.prim.code = 0) (hb : s.blk.ready = true)
    (hs : s.nextInput.start = true) : s.fetchWord = some (.cmd s.nextInput.cmd) := by
  simp [State.fetchWord, hp, hb, hs]

/-- R12: a ready sequencer without `start` selects nothing. -/
theorem State.fetchWord_of_no_start (hp : s.prim.code = 0) (hb : s.blk.ready = true)
    (hs : s.nextInput.start = false) : s.fetchWord = none := by
  simp [State.fetchWord, hp, hb, hs]

/-- R12, R64, R165: a busy one selects the micro-operation of `phase` and `variant_q`. -/
theorem State.fetchWord_of_busy (hp : s.prim.code = 0) (hb : s.blk.ready = false) :
    s.fetchWord = some (phaseWord s.blk.variantQ s.blk.phase.code) := by
  simp [State.fetchWord, hp, hb]

/-- A step runs a command a ready sequencer accepts (R160). -/
theorem step_of_start (hv : s.cfg.valid = true) (hp : s.prim.code = 0) (hr : s.nextInput.rst = none)
    (hb : s.blk.ready = true) (hs : s.nextInput.start = true) :
    step s = exec (decodeCmd s.nextInput.cmd) s.latched :=
  step_of_instr hv hr (State.fetchWord_of_start hp hb hs) rfl

/-- A step runs the micro-operation of `phase` and `variant_q` (R12, R64). -/
theorem step_of_microOp (hv : s.cfg.valid = true) (hp : s.prim.code = 0) (hr : s.nextInput.rst = none)
    (hd : decodeMicroOp s.blk.variantQ s.blk.phase = .instr i) : step s = exec i s.latched :=
  step_of_instr hv hr (State.fetchWord_of_busy hp (Block.ready_of_microOp hd)) (by simpa using hd)

/-- A step runs an outstanding PRIM request (assumption 7). -/
theorem step_of_prim (hv : s.cfg.valid = true) (hr : s.nextInput.rst = none)
    (hd : decode (.prim s.prim) = .instr i) : step s = exec i s.latched :=
  step_of_instr hv hr (State.fetchWord_of_prim (code_ne_zero_of_decode_prim hd)) hd

end

/-- Settles O12: the three cases are the three equations of a step that runs an instruction. -/
theorem stepRunsTheDecodedInstruction : Obligations.StepRunsTheDecodedInstruction := by
  rintro s i hv hr (⟨hp, -, hd⟩ | ⟨hp, hb, hs, hd⟩ | ⟨-, hd⟩)
  · exact step_of_microOp hv hp hr (by simpa using hd)
  · have hready : s.blk.ready = true := by rw [Block.ready_eq_not_busy, hb]; rfl
    cases hd
    exact step_of_start hv hp hr hready hs
  · exact step_of_prim hv hr hd

/-! ### A placed word -/

theorem decodeTableWord_eq_some {nbits w : Nat} {i : Instr} (h : decodeTableWord nbits w = some i) :
    ∃ cw, tableWord nbits w = some cw ∧ decode cw = .instr i := by
  obtain ⟨cw, hcw, hi⟩ := Option.bind_eq_some_iff.mp h
  refine ⟨cw, hcw, ?_⟩
  cases hd : decode cw <;> simp [hd, Decoded.instr?] at hi
  rw [hi]

/-- R64: a PHASE word that decodes names a phase, and its micro-operation is that phase's. -/
theorem decode_phase_eq_instr {bits : BitVec 5} {i : Instr} (h : decode (.phase bits) = .instr i) :
    ∃ p, Phase.ofCode (bits.extractLsb' 0 4) = some p ∧
      decodeMicroOp (Variant.ofCode (bits.getLsbD 4)) p = .instr i := by
  simp only [decode, decodePhase] at h
  split at h
  case h_1 p hp => exact ⟨p, hp, h⟩
  case h_2 => cases h

@[simp] theorem State.placeWord_cmd_ready (s : State) (bits : BitVec 2) :
    (s.placeWord (.cmd bits)).blk.ready = true := by
  cases h : s.blk.ready
  case false => simp only [State.placeWord, h]; rfl
  case true => simp only [State.placeWord, h, if_true]

/-- The step after a word has been placed runs it. -/
theorem step_placeWord {s : State} {cw : CodeWord} {i : Instr} (hv : s.cfg.valid = true)
    (hd : decode cw = .instr i) : step (s.placeWord cw) = exec i (s.placeWord cw).latched := by
  cases cw with
  | cmd bits =>
    cases hd
    exact step_of_start hv rfl rfl (s.placeWord_cmd_ready bits) rfl
  | phase bits =>
    obtain ⟨p, hp, hm⟩ := decode_phase_eq_instr hd
    exact step_of_microOp hv rfl rfl (by simpa [State.placeWord, hp] using hm)
  | prim req => exact step_of_prim hv rfl hd

/-- Taking the inputs and the request of a placed word leaves the state as it was but for `phase` and
`variant_q`. -/
theorem State.placeWord_latched (s : State) (cw : CodeWord) :
    (s.placeWord cw).latched = { s with
      blk := { s.blk with phase := (s.placeWord cw).blk.phase, variantQ := (s.placeWord cw).blk.variantQ }
      prim := PrimReq.none } := by
  cases cw <;> rfl

/-- Settles O13: the word is placed, the step runs it, and taking it gives the rest of the state back. -/
theorem placedWordRunsNext : Obligations.PlacedWordRunsNext := by
  intro s nbits w i hv hw
  obtain ⟨cw, hcw, hd⟩ := decodeTableWord_eq_some hw
  have hplaced : s.withFetchWord nbits w = s.placeWord cw := by simp [State.withFetchWord, hcw]
  rw [hplaced]
  exact ⟨_, step_placeWord hv hd, s.placeWord_latched cw⟩

/-! ### The table of `phase` -/

section
variable {s : State}

theorem State.command_of_ready {f : Fmt} {v : Variant} (h : s.blk.ready = true) :
    s.command f v = { s with blk := s.blk.accept f v } := if_pos h

/-- R12, R160: in `Idle` and `Done` the next phase is `Request` with `start`, and the same without. -/
theorem step_of_ready (hv : s.cfg.valid = true) (hp : s.prim = PrimReq.none) (hr : s.nextInput.rst = none)
    (hb : s.blk.ready = true) :
    ∃ t, step s = .next t ∧ t.blk.phase = if s.nextInput.start then .request else s.blk.phase := by
  have hcode : s.prim.code = 0 := by rw [hp]; rfl
  cases hs : s.nextInput.start
  · exact ⟨_, step_of_waiting hv hr (State.fetchWord_of_no_start hcode hb hs), rfl⟩
  · obtain ⟨f, v, hc⟩ := decodeCmd_eq_commandOf s.nextInput.cmd
    refine ⟨s.latched.command f v, ?_, ?_⟩
    · rw [step_of_start hv hcode hr hb hs, hc, exec_commandOf]
    · rw [State.command_of_ready (s := s.latched) hb]
      rfl

/-- R12, R64: in a busy phase the step runs that phase's micro-operation. -/
theorem step_of_busy (hv : s.cfg.valid = true) (hp : s.prim = PrimReq.none) (hr : s.nextInput.rst = none)
    (hb : s.blk.ready = false) :
    ∃ i t, decodeMicroOp s.blk.variantQ s.blk.phase = .instr i ∧ exec i s.latched = .next t ∧
      step s = .next t := by
  obtain ⟨i, hd⟩ := decodeMicroOp_instr hb
  obtain ⟨t, ht⟩ := exec_next i s.latched
  exact ⟨i, t, hd, ht, (step_of_microOp hv (by rw [hp]; rfl) hr hd).trans ht⟩

end

/-- The rows of R12's table for the phases in which a micro-operation runs: the next phase on success, `Done` where
the micro-operation can fail, and the bit index of the capture. -/
def Block.Advances (b b' : Block) : Prop :=
  match b.phase with
  | .idle | .done => False
  | .request      => b'.phase = .responseLow
  | .responseLow  => b'.phase = .responseHigh ∨ b'.phase = .done
  | .responseHigh => b'.phase = .dataReady ∨ b'.phase = .done
  | .dataReady    => (b'.phase = .bitHigh ∧ b'.bitIdx = 0) ∨ b'.phase = .done
  | .bitHigh      => (b'.phase = .bitLow ∧ b'.bitIdx = b.bitIdx) ∨ b'.phase = .done
  | .bitLow       => (b.bitIdx.val < 39 ∧ b'.phase = .bitHigh ∧ b'.bitIdx.val = b.bitIdx.val + 1) ∨
                     (b.bitIdx = 39 ∧ b'.phase = .check ∧ b'.bitIdx = 39) ∨ b'.phase = .done
  | .check        => b'.phase = .parse ∨ b'.phase = .done
  | .parse        => b'.phase = if b.fmtQ = .float then .toFloat else .done
  | .toFloat      => b'.phase = .done

/-- R12: every micro-operation, run in its phase, follows the table. -/
theorem Block.Moves.advances {rule : BitRule} {b b' : Block} {i : Instr} (h : b.Moves rule i b')
    (hi : i.microPhase = some b.phase) : b.Advances b' := by
  cases h with
  | accept f v hc => nomatch hc.symm.trans (Instr.format_of_microPhase hi)
  | ignore hc => nomatch hc.symm.trans (Instr.format_of_microPhase hi)
  | timeout e hf =>
    have hw := Instr.mem_waits_of_waitFailure hf
    fin_cases hw <;> simp [Block.Advances, ← Option.some.inj hi]
  | parseFloat hum temp hp hf | parseRaw hum temp hp hf =>
    rcases hp with rfl | rfl <;> simp [Block.Advances, ← Option.some.inj hi, hf]
  | nextBit e x hlt => simp [Block.Advances, ← Option.some.inj hi, hlt]
  | lastBit e x hlast => simp [Block.Advances, ← Option.some.inj hi, hlast]
  | setdir | setlvl | getlvl | delay | await => nomatch hi
  | _ => simp [Block.Advances, ← Option.some.inj hi]

/-- Settles O39: in `Idle` and `Done` by `start` (`step_of_ready`), in the busy phases because the step runs the
phase's micro-operation and that follows the table. -/
theorem phaseAdvancesAsTheTableSays : Obligations.PhaseAdvancesAsTheTableSays := by
  intro s hv hp hr
  cases hb : s.blk.ready with
  | true =>
    obtain ⟨t, hstep, hphase⟩ := step_of_ready hv hp hr hb
    refine ⟨t, hstep, ?_⟩
    cases hq : s.blk.phase
    case idle | done => simpa [hq] using hphase
    all_goals simp [Block.ready, hq] at hb
  | false =>
    obtain ⟨i, t, hd, ht, hstep⟩ := step_of_busy hv hp hr hb
    have hadv : s.blk.Advances t.blk := (exec_moves ht).advances (microPhase_of_decodeMicroOp hd)
    refine ⟨t, hstep, ?_⟩
    cases hq : s.blk.phase
    case idle | done => simp [Block.Advances, hq] at hadv
    all_goals simpa [Block.Advances, hq] using hadv

end Sys2Proof.Machine
end

section
/-! The invariant of the block and of the machine (R18, R21 to R25, R49, R122, R140 to R142, R168, R180): it holds
after reset and every step keeps it. -/

namespace Sys2Proof.Machine

/-! ### The frame under assembly -/

/-- R118: writing the bit of index `i` changes `frame[39 - i]` and no other bit. -/
theorem getLsbD_setFrameBit (f : Frame) (i : BitIdx) (x : Bool) {j : Nat} (hj : j < 40) :
    (setFrameBit f i x).getLsbD j = if j = 39 - i.val then x else f.getLsbD j := by
  have hmask : (1#40 <<< (39 - i.val)).getLsbD j = decide (j = 39 - i.val) := by
    rw [show 1#40 <<< (39 - i.val) = BitVec.twoPow 40 (39 - i.val) from rfl, BitVec.getLsbD_twoPow]
    simp only [eq_comm, show 39 - i.val < 40 by omega, decide_true, Bool.true_and]
  cases x
  case false =>
    simp only [setFrameBit, Bool.false_eq_true, if_false, BitVec.getLsbD_and, BitVec.getLsbD_not, hmask, hj]
    by_cases h : j = 39 - i.val <;> simp [h]
  case true =>
    simp only [setFrameBit, if_true, BitVec.getLsbD_or, hmask]
    by_cases h : j = 39 - i.val <;> simp [h]

theorem Block.uncaptured_of_frame_zero {b : Block} (h : b.frame = 0) (n : Nat) : b.uncaptured n := by
  intro j _ _
  simp [h]

/-- R118: after the bit of the present index, the bits from the next index on are still 0. -/
theorem uncaptured_setFrameBit {b b' : Block} {x : Bool} (h : b.uncaptured b.bitIdx.val)
    (hf : b'.frame = setFrameBit b.frame b.bitIdx x) : b'.uncaptured (b.bitIdx.val + 1) := by
  intro j hj h40
  rw [hf, getLsbD_setFrameBit _ _ _ (by omega), if_neg (by omega)]
  exact h j (by omega) h40

/-! ### A decode without an outcome yet -/

/-- The registers of a decode that has produced nothing yet: the pin released, no failure, no Reading. -/
structure Block.Blank (b : Block) : Prop where
  pin      : b.pinOe = false ∧ b.pinOut = true
  status   : b.status = .ok
  errIndex : b.errIndex = 0
  reading  : b.noReading

/-- What the frame holds in the phases from REQUEST to PARSE. -/
def Block.FrameInPhase (b : Block) : Prop :=
  match b.phase with
  | .request | .responseLow | .responseHigh | .dataReady => b.frame = 0
  | .bitHigh | .bitLow                                   => b.uncaptured b.bitIdx.val
  | .check                                               => True
  | .parse                                               => csOk b.frame = true
  | .idle | .toFloat | .done                             => False

namespace Block.Blank
variable {b : Block}

/-- The capture's registers are not the outcome's. -/
theorem capture (h : b.Blank) (p : Phase) (k : BitIdx) (e lo hi : U16) (f : Frame) :
    { b with phase := p, bitIdx := k, elapsed := e, lowDur := lo, highDur := hi, frame := f }.Blank :=
  ⟨h.pin, h.status, h.errIndex, h.reading⟩

theorem floats (h : b.Blank) : b.humF32 = 0 ∧ b.tempF32 = 0 := by
  obtain ⟨-, -, -, hfloats⟩ := h.reading
  exact hfloats

/-- Without an outcome, the invariant is what it says of the frame. -/
theorem inv (h : b.Blank) (hf : b.FrameInPhase) : b.Inv := by
  obtain ⟨hv, -⟩ := h.reading
  have hdone : b.phase ≠ .done := fun hp => by simp [FrameInPhase, hp] at hf
  have htof : b.phase ≠ .toFloat := fun hp => by simp [FrameInPhase, hp] at hf
  exact {
    pin := h.pin
    index := fun _ => h.errIndex
    failed := fun hs => absurd h.status hs
    valid := by simp [hv, hdone, htof]
    results := fun _ => h.reading
    floats := fun _ => h.floats
    toFloat := fun hp => absurd hp htof
    cleared := fun hr => by
      cases hp : b.phase <;> simp [FrameInPhase, Block.ready, hp] at hf hr
    early := by rintro (hp | hp | hp | hp) <;> simpa [FrameInPhase, hp] using hf
    capturing := by rintro (hp | hp) <;> simpa [FrameInPhase, hp] using hf
    checked := fun hp => by simpa [FrameInPhase, hp] using hf }

end Block.Blank

namespace Block.Inv
variable {b : Block}

/-- A decode before `ToFloat` has no outcome. -/
theorem blank (h : b.Inv) {p : Phase} (hp : b.phase = p) (hdone : p ≠ .done := by decide)
    (htof : p ≠ .toFloat := by decide) : b.Blank := by
  subst hp
  have hs : b.status = .ok := by_contra fun hs => hdone (h.failed hs)
  refine ⟨h.pin, hs, h.index (by simp [hs]), h.results ?_⟩
  exact Bool.eq_false_iff.mpr fun hv => (h.valid.mp hv).2.elim hdone htof

/-- R30: the reset values. -/
theorem reset : Block.reset.Inv where
  pin := ⟨rfl, rfl⟩
  index := fun _ => rfl
  failed := fun hs => absurd rfl hs
  valid := by simp [Block.reset]
  results := fun _ => ⟨rfl, rfl, rfl, rfl, rfl⟩
  floats := fun _ => ⟨rfl, rfl⟩
  toFloat := nofun
  cleared := fun _ => rfl
  early := fun _ => rfl
  capturing := fun _ => Block.uncaptured_of_frame_zero rfl _
  checked := nofun

/-- R160, R202: ACCEPT clears everything but the pin, which was released. -/
theorem accept (h : b.Inv) (f : Fmt) (v : Variant) : (b.accept f v).Inv :=
  Block.Blank.inv ⟨h.pin, rfl, rfl, rfl, rfl, rfl, rfl, rfl⟩ rfl

/-- R180: a failure surfaces nothing and goes to `Done`. -/
theorem raise (hpin : b.pinOe = false ∧ b.pinOut = true) (f : Failure) : (b.raise f).Inv where
  pin := hpin
  index := by cases f <;> simp [Failure.status, Failure.errIndex]
  failed := fun _ => rfl
  valid := by simp [Failure.status_ne_ok]
  results := fun _ => ⟨rfl, rfl, rfl, rfl, rfl⟩
  floats := fun _ => ⟨rfl, rfl⟩
  toFloat := nofun
  cleared := fun _ => rfl
  early := by simp
  capturing := by simp
  checked := nofun

/-- R141, R142: the Reading of READ_FLOAT, with TOFLOAT still to run (assumption 9). -/
theorem presentFloat (h : b.Blank) (hf : b.fmtQ = .float) (hum temp : U16) :
    { b with humTenths := hum, tempTenths := temp, resultValid := true, phase := .toFloat }.Inv where
  pin := h.pin
  index := fun _ => h.errIndex
  failed := fun hs => absurd h.status hs
  valid := by simp [h.status]
  results := nofun
  floats := fun _ => h.floats
  toFloat := fun _ => hf
  cleared := nofun
  early := by simp
  capturing := by simp
  checked := nofun

/-- R141, R142, R168: the Reading of READ_RAW. -/
theorem presentRaw (h : b.Blank) (hum temp : U16) :
    { b with humTenths := hum, tempTenths := temp, resultValid := true, frame := 0, phase := .done }.Inv where
  pin := h.pin
  index := fun _ => h.errIndex
  failed := fun hs => absurd h.status hs
  valid := by simp [h.status]
  results := nofun
  floats := fun _ => h.floats
  toFloat := nofun
  cleared := fun _ => rfl
  early := by simp
  capturing := by simp
  checked := nofun

/-- R150, R168: the floats of the Reading that TOFLOAT found. -/
theorem toFloatDone (h : b.Inv) (hp : b.phase = .toFloat) (hum temp : F32) :
    { b with humF32 := hum, tempF32 := temp, frame := 0, phase := .done }.Inv := by
  have hs : b.status = .ok := by_contra fun hs => by simp [h.failed hs] at hp
  have hv : b.resultValid = true := h.valid.mpr ⟨hs, .inr hp⟩
  exact {
    pin := h.pin
    index := h.index
    failed := fun hs' => absurd hs hs'
    valid := by simp [hs, hv]
    results := by simp [hv]
    floats := by simp [h.toFloat hp]
    toFloat := nofun
    cleared := fun _ => rfl
    early := by simp
    capturing := by simp
    checked := nofun }

end Block.Inv

/-- R160, R165: every command keeps the invariant of the block. -/
theorem Block.Moves.inv_of_cmd {rule : BitRule} {b b' : Block} {i : Instr} (h : b.Moves rule i b') (hb : b.Inv)
    (hi : i.format = .cmd) : b'.Inv := by
  rcases h.of_cmd hi with rfl | ⟨f, v, rfl⟩
  · exact hb
  · exact hb.accept f v

/-- Every micro-operation, run in its phase, keeps the invariant of the block. -/
theorem Block.Moves.inv_of_microOp {rule : BitRule} {b b' : Block} {i : Instr} (h : b.Moves rule i b')
    (hb : b.Inv) (hi : i.microPhase = some b.phase) : b'.Inv := by
  have hphase {p : Phase} (hp : i.microPhase = some p) : b.phase = p := Option.some.inj (hi.symm.trans hp)
  cases h with
  | accept f v hc => exact hb.accept f v
  | ignore => exact hb
  | request =>
    obtain ⟨-, hs, hx, hr⟩ := hb.blank (hphase rfl)
    exact Block.Blank.inv ⟨⟨rfl, rfl⟩, hs, hx, hr⟩ (hb.early (.inl (hphase rfl)))
  | respLow =>
    exact ((hb.blank (hphase rfl)).capture ..).inv (hb.early (.inr (.inl (hphase rfl))))
  | respHigh =>
    exact ((hb.blank (hphase rfl)).capture ..).inv (hb.early (.inr (.inr (.inl (hphase rfl)))))
  | dataReady =>
    have hframe : b.frame = 0 := hb.early (.inr (.inr (.inr (hphase rfl))))
    exact ((hb.blank (hphase rfl)).capture ..).inv (Block.uncaptured_of_frame_zero hframe 0)
  | bitHi =>
    exact ((hb.blank (hphase rfl)).capture ..).inv (hb.capturing (.inl (hphase rfl)))
  | nextBit =>
    exact ((hb.blank (hphase rfl)).capture ..).inv
      (uncaptured_setFrameBit (hb.capturing (.inr (hphase rfl))) rfl)
  | lastBit => exact ((hb.blank (hphase rfl)).capture ..).inv trivial
  | check hcs => exact ((hb.blank (hphase rfl)).capture ..).inv hcs
  | mismatch => exact .raise hb.pin _
  | timeout e => exact .raise (b := { b with elapsed := e }) hb.pin _
  | parseFloat hum temp hp hf =>
    have hparse : b.phase = .parse := hphase (by rcases hp with rfl | rfl <;> rfl)
    exact .presentFloat (hb.blank hparse) hf hum temp
  | parseRaw hum temp hp =>
    have hparse : b.phase = .parse := hphase (by rcases hp with rfl | rfl <;> rfl)
    exact .presentRaw (hb.blank hparse) hum temp
  | toFloat hum temp => exact hb.toFloatDone (hphase rfl) hum temp
  | setdir | setlvl | getlvl | delay | await => nomatch hi

/-! ### The pin trace -/

theorem logOrdered.le_of_mem {l : List Event} {m : Nat} (h : logOrdered l m) {e : Event} (he : e ∈ l) :
    e.tick ≤ m := by
  induction l generalizing m with
  | nil => cases he
  | cons a l ih =>
    obtain ⟨ham, hl⟩ := h
    rcases List.mem_cons.mp he with rfl | he
    · exact ham
    · exact (ih hl he).trans ham

/-- Leaving actions out keeps the order. -/
theorem logOrdered.sublist {l l' : List Event} (hs : l'.Sublist l) {m : Nat} (h : logOrdered l m) :
    logOrdered l' m := by
  induction hs generalizing m with
  | slnil => trivial
  | cons a _ ih => exact (ih h.2).mono h.1
  | cons_cons a _ ih => exact ⟨h.1, ih h.2⟩

/-- An earlier present will do when every action is before it. -/
theorem logOrdered.of_forall_le {l : List Event} {m n : Nat} (h : logOrdered l m) (hn : ∀ e ∈ l, e.tick ≤ n) :
    logOrdered l n := by
  cases l with
  | nil => trivial
  | cons e l => exact ⟨hn e List.mem_cons_self, h.2⟩

/-- R201: the actions a reset lets stand are those of the step before its instant. -/
theorem State.eventsBefore_of_append {s t : State} {new : List Event} (h : t.log = new ++ s.log) (n : Nat) :
    s.eventsBefore t n = new.filter fun e => decide (e.tick < n) := by
  simp [State.eventsBefore, h]

/-- R49, R201: a reset during a step keeps the pin trace in order. -/
theorem State.Evolves.ordered_resetDuring {s t : State} (h : s.Evolves t) (hs : s.Ordered) (k : Nat) :
    (s.resetDuring k t).Ordered := by
  obtain ⟨new, hnew⟩ := h.log
  refine ⟨le_rfl, ?_⟩
  rw [State.eventsBefore_of_append hnew.symm]
  have hkept :
      logOrdered ((new.filter fun e => decide (e.tick < min (s.tick + k) t.tick)) ++ s.log) t.tick :=
    (h.ordered hs).sublist (hnew ▸ List.filter_sublist.append_right s.log)
  refine hkept.of_forall_le fun e he => ?_
  rcases List.mem_append.mp he with he | he
  · exact (of_decide_eq_true (List.mem_filter.mp he).2).le
  · exact (hs.le_of_mem he).trans (le_min (Nat.le_add_right _ _) h.tick)

/-! ### The machine -/

/-- Settles O40: the registers by R30, the model's own fields by the values it chose. -/
theorem resetMeetsTheInvariant : Obligations.ResetMeetsTheInvariant :=
  ⟨by decide, rfl, Block.Inv.reset, trivial⟩

/-- Settles O5: State.reset is a literal, so each value is read off it. -/
theorem resetTable : Obligations.ResetTable := ⟨rfl, rfl, rfl, rfl, rfl, rfl, rfl⟩

/-- With no request outstanding a step selects a command or the micro-operation of the present phase (R12, R60,
R160). -/
theorem State.selected_of_no_request {s : State} {w : CodeWord} {i : Instr} (hp : s.prim = PrimReq.none)
    (hw : s.fetchWord = some w) (hd : decode w = .instr i) :
    i.format = .cmd ∨ i.microPhase = some s.blk.phase := by
  have hcode : s.prim.code = 0 := by rw [hp]; rfl
  cases hb : s.blk.ready with
  | false =>
    cases hw.symm.trans (State.fetchWord_of_busy hcode hb)
    exact .inr (microPhase_of_decodeMicroOp (by simpa using hd))
  | true =>
    cases hs : s.nextInput.start with
    | false => cases hw.symm.trans (State.fetchWord_of_no_start hcode hb hs)
    | true =>
      cases hw.symm.trans (State.fetchWord_of_start hcode hb hs)
      cases hd
      obtain ⟨f, v, hc⟩ := decodeCmd_eq_commandOf s.nextInput.cmd
      exact .inl (by rw [hc, commandOf_format])

/-- Settles O41: under reset by R30's values, waiting because nothing changes, and else because the instruction the
step runs keeps the invariant of the block and the order of the pin trace. -/
theorem everyStepKeepsTheInvariant : Obligations.EveryStepKeepsTheInvariant := by
  intro s t hs hstep
  obtain ⟨hv, hreset | ⟨-, -, rfl⟩ | ⟨-, w, i, hw, hd, hex⟩⟩ := step_next hstep
  · obtain ⟨k, u, -, rfl, hu⟩ := hreset
    have he : s.latched.Evolves u := by
      rcases hu with rfl | ⟨w, i, -, -, hex⟩
      · exact .refl s.latched
      · exact exec_evolves hex
    exact ⟨hv, rfl, Block.Inv.reset, he.ordered_resetDuring hs.log k⟩
  · exact ⟨hv, rfl, hs.blk, hs.log⟩
  · have he := exec_evolves hex
    have hblk : t.blk.Inv := by
      rcases State.selected_of_no_request hs.prim hw hd with hi | hi
      · exact (exec_moves hex).inv_of_cmd hs.blk hi
      · exact (exec_moves hex).inv_of_microOp hs.blk hi
    exact ⟨he.cfg ▸ hv, he.prim, hblk, he.ordered hs.log⟩

end Sys2Proof.Machine
end

section
/-! Whole decodes: a decode ends in `Done` within the steps R110 lists, and two decodes with the same
command, configuration and samples go on alike (R29, R184, R202), because an instruction's effect on the
registers depends on the configuration, the registers and the sample stream alone. -/

namespace Sys2Proof.Machine

/-! ### A decode without reset -/

/-- A decode in progress or ended, with no reset to come and no request outstanding. -/
structure State.Decoding (s : State) : Prop where
  cfg     : s.cfg.valid = true
  prim    : s.prim = PrimReq.none
  noReset : s.noReset
  started : s.blk.phase ≠ .idle

theorem State.noReset.nextInput {s : State} (h : s.noReset) : s.nextInput.rst = none := by
  unfold State.nextInput
  cases hi : s.inputs with
  | nil => rfl
  | cons inp rest => exact h inp (by simp [hi])

theorem State.noReset.latched {s : State} (h : s.noReset) : s.latched.noReset :=
  fun inp hinp => h inp (List.mem_of_mem_drop hinp)

/-- R12: no micro-operation goes to `Idle`. -/
theorem Block.Advances.phase_ne_idle {b b' : Block} (h : b.Advances b') : b'.phase ≠ .idle := by
  intro h'
  cases hp : b.phase <;> simp [Block.Advances, hp, h'] at h
  split at h <;> cases h

/-- A decode that is not done makes one more step, its phase's micro-operation, along the table of `phase`. -/
theorem State.Decoding.step {s : State} (h : s.Decoding) (hd : s.blk.phase ≠ .done) :
    ∃ i t, decodeMicroOp s.blk.variantQ s.blk.phase = .instr i ∧ exec i s.latched = .next t ∧
      Machine.step s = .next t ∧ t.Decoding ∧ s.blk.Advances t.blk := by
  have hbusy : s.blk.ready = false := by simp [Block.ready, h.started, hd]
  obtain ⟨i, t, hi, hex, hstep⟩ := step_of_busy h.cfg h.prim h.noReset.nextInput hbusy
  have he := exec_evolves hex
  have hadv : s.blk.Advances t.blk := (exec_moves hex).advances (microPhase_of_decodeMicroOp hi)
  refine ⟨i, t, hi, hex, hstep, ⟨he.cfg ▸ h.cfg, he.prim, ?_, hadv.phase_ne_idle⟩, hadv⟩
  unfold State.noReset
  rw [he.inputs]
  exact h.noReset.latched

/-- R160: the step that accepts a command. -/
theorem State.Accepting.step {s : State} {f : Fmt} {v : Variant} (h : s.Accepting f v) (hr : s.noReset) :
    Machine.step s = .next { s.latched with blk := s.blk.accept f v } := by
  have hcode : s.prim.code = 0 := by rw [h.prim]; rfl
  have hdec : decodeCmd s.nextInput.cmd = commandOf f v := by
    simpa [decode, h.cmd] using decode_cmdBits f v
  rw [step_of_start h.cfg hcode hr.nextInput h.ready h.start, hdec, exec_commandOf,
    State.command_of_ready (s := s.latched) h.ready]
  rfl

theorem State.Accepting.decoding {s : State} {f : Fmt} {v : Variant} (h : s.Accepting f v) (hr : s.noReset) :
    State.Decoding { s.latched with blk := s.blk.accept f v } :=
  ⟨h.cfg, rfl, hr.latched, by simp⟩

/-! ### The steps a decode has left -/

/-- The most micro-operations a decode still runs before `Done` (R110): two for every bit not yet captured. -/
def Block.stepsLeft (b : Block) : Nat :=
  match b.phase with
  | .idle | .done => 0
  | .toFloat      => 1
  | .parse        => 2
  | .check        => 3
  | .bitLow       => 2 * (40 - b.bitIdx.val) + 2
  | .bitHigh      => 2 * (40 - b.bitIdx.val) + 3
  | .dataReady    => 84
  | .responseHigh => 85
  | .responseLow  => 86
  | .request      => 87

theorem Block.Advances.stepsLeft_lt {b b' : Block} (h : b.Advances b') : b'.stepsLeft < b.stepsLeft := by
  cases hp : b.phase <;> simp only [Block.Advances, hp] at h
  case request | toFloat => simp [Block.stepsLeft, hp, h]
  case responseLow | responseHigh | check => rcases h with h | h <;> simp [Block.stepsLeft, hp, h]
  case parse => split at h <;> simp [Block.stepsLeft, hp, h]
  case dataReady | bitHigh => rcases h with ⟨h, hk⟩ | h <;> simp [Block.stepsLeft, *]
  case bitLow =>
    rcases h with ⟨hlt, h, hk⟩ | ⟨hlast, h, -⟩ | h
    · simp only [Block.stepsLeft, hp, h, hk]
      omega
    · simp [Block.stepsLeft, hp, h, hlast]
    · simp [Block.stepsLeft, hp, h]

/-! ### What an instruction's effect depends on -/

/-- Two states that nothing in the configuration, the registers or the samples to come tells apart. -/
structure State.Alike (s s' : State) : Prop where
  cfg    : s.cfg = s'.cfg
  blk    : s.blk = s'.blk
  stream : s.stream = s'.stream

namespace State.Alike
variable {s s' : State}

/-- Writing the same registers. -/
theorem write (h : s.Alike s') {b b' : Block} (hb : b = b') (r r' : PrimResult) :
    State.Alike { s with blk := b, ret := r } { s' with blk := b', ret := r' } :=
  ⟨h.cfg, hb, h.stream⟩

theorem afterRead (h : s.Alike s') : s.afterRead.Alike s'.afterRead :=
  ⟨h.cfg, h.blk, funext fun k => by simp [h.stream]⟩

theorem waited (h : s.Alike s') (n m : Nat) : (s.waited n m).Alike (s'.waited n m) :=
  ⟨h.cfg, by simp [h.blk], funext fun k => by simp [h.stream]⟩

theorem await (h : s.Alike s') (hp : 1 ≤ s.cfg.poll.toNat) (expected : Bool) (timeout : U16) :
    (s.await expected timeout).1 = (s'.await expected timeout).1 ∧
      (s.await expected timeout).2.Alike (s'.await expected timeout).2 := by
  rw [State.await_eq s expected timeout hp, State.await_eq s' expected timeout (h.cfg ▸ hp), ← h.cfg,
    ← h.stream]
  cases firstMatch s.stream expected (s.cfg.maxSamples timeout) 0 with
  | some k => exact ⟨rfl, h.waited _ _⟩
  | none => exact ⟨rfl, h.waited _ _⟩

theorem waitPhase (h : s.Alike s') (hp : 1 ≤ s.cfg.poll.toNat) (expected : Bool) (timeout : U16) (f : Failure)
    {ok : U16 → State → State} (hok : ∀ x (u u' : State), u.Alike u' → (ok x u).Alike (ok x u')) :
    (s.waitPhase expected timeout f ok).Alike (s'.waitPhase expected timeout f ok) := by
  have hw := h.await hp expected timeout
  unfold State.waitPhase
  generalize s.await expected timeout = a, s'.await expected timeout = a' at hw
  obtain ⟨x | -, u⟩ := a <;> obtain ⟨x' | -, u'⟩ := a' <;> obtain ⟨hx, hu⟩ := hw <;> cases hx
  · exact hok x u u' hu
  · exact hu.write (by rw [hu.blk]) _ _

theorem latched (h : s.Alike s') : s.latched.Alike s'.latched := ⟨h.cfg, h.blk, h.stream⟩

theorem command (h : s.Alike s') (f : Fmt) (v : Variant) : (s.command f v).Alike (s'.command f v) := by
  unfold State.command
  rw [h.blk]
  split
  case isTrue => exact h.write rfl _ _
  case isFalse => exact h

theorem present (h : s.Alike s') (hum temp : U16) : (s.present hum temp).Alike (s'.present hum temp) := by
  unfold State.present
  rw [h.blk]
  split
  case h_1 => exact h.write rfl _ _
  case h_2 => exact h.write rfl _ _

end State.Alike

/-- R111: REQUEST leaves the pin registers at values of its own, so what they held does not matter. -/
theorem execRequest_alike {s s' t t' : State} (hcfg : s.cfg = s'.cfg) (hstream : s.stream = s'.stream)
    (hblk : { s.blk with pinOe := false, pinOut := true } = { s'.blk with pinOe := false, pinOut := true })
    (ht : exec .request s = .next t) (ht' : exec .request s' = .next t') : t.Alike t' := by
  cases ht
  cases ht'
  exact ⟨hcfg, congrArg (fun b : Block => { b with phase := .responseLow }) hblk, hstream⟩

/-- R29, R51, R187: what an instruction does to the registers, and which samples it takes, depends on the
configuration, the registers and the samples alone. -/
theorem exec_alike {i : Instr} {s s' t t' : State} (h : s.Alike s') (hp : 1 ≤ s.cfg.poll.toNat)
    (ht : exec i s = .next t) (ht' : exec i s' = .next t') : t.Alike t' := by
  cases i
  case request => exact execRequest_alike h.cfg h.stream (by rw [h.blk]) ht ht'
  all_goals cases ht; cases ht'
  case readRawV11 | readRawV22 | readFloatV11 | readFloatV22 => exact h.command _ _
  case respLow | respHigh | dataReady =>
    rw [← h.cfg]
    exact h.waitPhase hp _ _ _ fun _ u u' hu => hu.write (by rw [hu.blk]) _ _
  case bitHi =>
    rw [← h.cfg, ← h.blk]
    exact h.waitPhase hp _ _ _ fun _ u u' hu => hu.write (by rw [hu.blk]) _ _
  case bitLo =>
    rw [← h.cfg, ← h.blk]
    exact h.waitPhase hp _ _ _ fun _ u u' hu => hu.write (by rw [hu.blk, hu.cfg]) _ _
  case check =>
    rw [← h.blk]
    split
    case isTrue => exact h.write (by rw [h.blk]) _ _
    case isFalse => exact h.write (by rw [h.blk]) _ _
  case parse11 | parse22 =>
    rw [← h.blk]
    exact h.present _ _
  case toFloat => exact h.write (by rw [h.blk]) _ _
  case setdir | setlvl => exact ⟨h.cfg, by simp [h.blk], h.stream⟩
  case getlvl => exact h.afterRead.write h.blk _ _
  case delay => exact ⟨h.cfg, h.blk, h.stream⟩
  case await expected timeout =>
    exact (h.await hp expected timeout).2.write (h.await hp expected timeout).2.blk _ _

/-! ### Two decodes -/

/-- Two decodes in states that nothing tells apart end in `Done` with the same registers. -/
theorem runToDone_alike (n : Nat) {s s' : State} (h : s.Decoding) (h' : s'.Decoding) (ha : s.Alike s')
    (hn : s.blk.stepsLeft ≤ n) :
    ∃ u u', runToDone n s = .next u ∧ runToDone n s' = .next u' ∧ u.blk.phase = .done ∧ u.blk = u'.blk := by
  induction n generalizing s s' with
  | zero =>
    have hd : s.blk.phase = .done := by
      by_contra hd
      obtain ⟨i, t, -, -, -, -, hadv⟩ := h.step hd
      exact absurd hadv.stepsLeft_lt (by omega)
    exact ⟨s, s', rfl, rfl, hd, ha.blk⟩
  | succ n ih =>
    by_cases hd : s.blk.phase = .done
    · exact ⟨s, s', runToDone_done hd, runToDone_done (ha.blk ▸ hd), hd, ha.blk⟩
    · obtain ⟨i, t, hi, hex, hstep, hdec, hadv⟩ := h.step hd
      obtain ⟨i', t', hi', hex', hstep', hdec', -⟩ := h'.step (ha.blk ▸ hd)
      obtain rfl : i = i' := by simpa [ha.blk, hi'] using hi.symm
      have ht : t.Alike t' := exec_alike ha.latched (Config.one_le_poll h.cfg) hex hex'
      rw [runToDone_succ hd hstep, runToDone_succ (ha.blk ▸ hd) hstep']
      exact ih hdec hdec' ht (by have := hadv.stepsLeft_lt; omega)

/-- Settles O46: acceptance leaves nothing of the earlier decode but the pin registers (R202), REQUEST overwrites
these, and from there the two decodes are alike. -/
theorem nothingSurvivesIntoTheNextDecode : Obligations.NothingSurvivesIntoTheNextDecode := by
  intro s s' f v hs hs' hr hr' hcfg hstream
  have hd := hs.decoding hr
  have hd' := hs'.decoding hr'
  obtain ⟨i, t, hi, hex, hstep, hdec, hadv⟩ := hd.step nofun
  obtain ⟨i', t', hi', hex', hstep', hdec', -⟩ := hd'.step nofun
  cases hi
  cases hi'
  have ha : t.Alike t' := by
    refine execRequest_alike ?_ ?_ ?_ hex hex'
    · exact hcfg
    · exact funext hstream
    · rfl
  have hleft : t.blk.stepsLeft < 87 := hadv.stepsLeft_lt
  obtain ⟨u, u', hu, hu', hdone, hblk⟩ := runToDone_alike 86 hdec hdec' ha (by omega)
  exact ⟨_, _, u, u', hs.step hr, hs'.step hr', (runToDone_succ (by simp) hstep).trans hu,
    (runToDone_succ (by simp) hstep').trans hu', hdone, hblk⟩

end Sys2Proof.Machine
end

section
/-! The pin (20_memory.md section 2): which instructions drive it and which sample it, said once (`exec_records`).
From that, samples are taken in the waiting phases alone (R44, R52), and the pin trace of a decode is REQUEST's
(R43, R111). -/

namespace Sys2Proof

/-- The instructions that drive the pin: REQUEST, SETDIR and SETLVL (R90, R91, R111). -/
def Instr.drives : Instr → Bool
  | .request | .setdir _ | .setlvl _ => true
  | _ => false

/-- The instructions that sample the pin: the five waits, GETLVL and AWAIT (R92, R95, R98). -/
def Instr.samples : Instr → Bool
  | .respLow | .respHigh | .dataReady | .bitHi | .bitLo | .getlvl | .await _ _ => true
  | _ => false

theorem Instr.samples_of_cmd {i : Instr} (h : i.format = .cmd) : i.samples = false := by
  cases i <;> cases h <;> rfl

/-- R98: a micro-operation that samples runs in a waiting phase. -/
theorem Instr.waiting_of_samples {i : Instr} {p : Phase} (hs : i.samples = true) (hp : i.microPhase = some p) :
    p ∈ [Phase.responseLow, .responseHigh, .dataReady, .bitHigh, .bitLow] := by
  cases i <;> cases hp <;> simp [Instr.samples] at hs ⊢

/-- R111: of the micro-operations REQUEST alone drives the pin. -/
theorem Instr.drives_of_microPhase {i : Instr} {p : Phase} (hp : i.microPhase = some p) (hr : p ≠ .request) :
    i.drives = false := by
  cases i <;> cases hp <;> simp [Instr.drives] at hr ⊢

end Sys2Proof

namespace Sys2Proof.Machine

/-! ### The pin actions of an instruction -/

/-- The event is of a kind that instruction `i` makes. -/
def Event.madeBy (i : Instr) : Event → Bool
  | .drive _ _ _ => i.drives
  | .sample _ _  => i.samples

/-- The actions of an instruction that does not sample hold no sample. -/
theorem countP_isSample_eq_zero {i : Instr} {new : List Event} (hi : i.samples = false)
    (h : ∀ e ∈ new, e.madeBy i = true) : new.countP Event.isSample = 0 := by
  refine List.countP_eq_zero.mpr fun e he => ?_
  cases e with
  | drive => exact nofun
  | sample t l => exact absurd (hi.symm.trans (h _ he)) nofun

/-- From `s` to `t` only pin actions of kinds that `i` makes happened, and `drawn` counts the samples among them
(R43, R44). -/
def State.Records (i : Instr) (s t : State) : Prop :=
  ∃ new : List Event, t.log = new ++ s.log ∧ t.drawn = s.drawn + new.countP Event.isSample ∧
    ∀ e ∈ new, e.madeBy i = true

/-- A wait's events are its samples. -/
theorem isSample_of_mem_sampleEvents {σ : Stream} {begin poll n : Nat} {e : Event}
    (h : e ∈ sampleEvents σ begin poll n) : e.isSample = true := by
  induction n with
  | zero => cases h
  | succ n ih =>
    rcases List.mem_cons.mp h with rfl | h
    · rfl
    · exact ih h

theorem length_sampleEvents (σ : Stream) (begin poll n : Nat) : (sampleEvents σ begin poll n).length = n := by
  induction n with
  | zero => rfl
  | succ n ih => simp [sampleEvents, ih]

namespace State.Records
variable {i : Instr} {s t u : State}

theorem trans (h : s.Records i t) (h' : t.Records i u) : s.Records i u := by
  obtain ⟨new, hlog, hdrawn, hnew⟩ := h
  obtain ⟨new', hlog', hdrawn', hnew'⟩ := h'
  refine ⟨new' ++ new, by simp [hlog, hlog'], by simp [hdrawn, hdrawn']; omega, fun e he => ?_⟩
  exact (List.mem_append.mp he).elim (hnew' e) (hnew e)

/-- What leaves the record alone is no pin action. -/
theorem of_eq (hlog : t.log = s.log) (hdrawn : t.drawn = s.drawn) : s.Records i t :=
  ⟨[], hlog, hdrawn, nofun⟩

theorem pinDrive (hi : i.drives = true) (s : State) (oe out : Bool) : s.Records i (s.pinDrive oe out) :=
  ⟨[.drive s.tick oe out], rfl, rfl, by simpa [Event.madeBy] using hi⟩

theorem afterRead (hi : i.samples = true) (s : State) : s.Records i s.afterRead :=
  ⟨[.sample s.tick (s.stream 0)], rfl, rfl, by simpa [Event.madeBy] using hi⟩

theorem waited (hi : i.samples = true) (s : State) (n m : Nat) : s.Records i (s.waited n m) := by
  refine ⟨sampleEvents s.stream s.tick s.cfg.poll.toNat n, rfl, ?_, fun e he => ?_⟩
  · rw [List.countP_eq_length.mpr fun e he => isSample_of_mem_sampleEvents he, length_sampleEvents]
    rfl
  · have hs : e.isSample = true := isSample_of_mem_sampleEvents he
    cases e with
    | drive => cases hs
    | sample => exact hi

theorem await (hi : i.samples = true) (hp : 1 ≤ s.cfg.poll.toNat) (expected : Bool) (timeout : U16) :
    s.Records i (s.await expected timeout).2 := by
  rcases s.firstAt_or_never expected (s.cfg.maxSamples timeout) with ⟨k, hk⟩ | hn
  · rw [State.await_of_firstAt hp hk]
    exact waited hi s _ _
  · rw [State.await_of_never hp hn]
    exact waited hi s _ _

theorem waitPhase (hi : i.samples = true) (hp : 1 ≤ s.cfg.poll.toNat) {expected : Bool} {timeout : U16}
    {f : Failure} {ok : U16 → State → State} (hok : ∀ x (u : State), u.Records i (ok x u)) :
    s.Records i (s.waitPhase expected timeout f ok) := by
  have h := await hi hp expected timeout
  unfold State.waitPhase
  generalize s.await expected timeout = answer at h
  obtain ⟨x | -, u⟩ := answer
  · exact h.trans (hok x u)
  · exact h.trans (of_eq rfl rfl)

theorem drawn_le (h : s.Records i t) : s.drawn ≤ t.drawn := by
  obtain ⟨new, -, hdrawn, -⟩ := h
  omega

/-- R44: an instruction that does not sample draws nothing from the oracle. -/
theorem drawn_eq (h : s.Records i t) (hi : i.samples = false) : t.drawn = s.drawn := by
  obtain ⟨new, -, hdrawn, hnew⟩ := h
  rw [hdrawn, countP_isSample_eq_zero hi hnew, Nat.add_zero]

/-- R201: an instruction that does not sample takes no sample under reset either. -/
theorem drawn_resetDuring (h : s.Records i t) (hi : i.samples = false) (k : Nat) :
    (s.resetDuring k t).drawn = s.drawn := by
  obtain ⟨new, hlog, -, hnew⟩ := h
  have hkept : ∀ e ∈ s.eventsBefore t (min (s.tick + k) t.tick), e.madeBy i = true := by
    rw [State.eventsBefore_of_append hlog]
    exact fun e he => hnew e (List.mem_of_mem_filter he)
  simp [State.resetDuring, countP_isSample_eq_zero hi hkept]

/-- R43: an instruction that does not drive the pin leaves the pin trace as it is. -/
theorem pinTrace_eq (h : s.Records i t) (hi : i.drives = false) : t.pinTrace = s.pinTrace := by
  obtain ⟨new, hlog, -, hnew⟩ := h
  simp only [State.pinTrace, hlog, List.reverse_append, List.filterMap_append, List.append_right_eq_self,
    List.filterMap_eq_nil_iff, List.mem_reverse]
  intro e he
  cases e with
  | drive => exact absurd (hi.symm.trans (hnew _ he)) nofun
  | sample => rfl

end State.Records

/-- Every instruction makes only the pin actions of its kind. -/
theorem exec_records {i : Instr} {s t : State} (hp : 1 ≤ s.cfg.poll.toNat) (h : exec i s = .next t) :
    s.Records i t := by
  cases i <;> cases h
  case readRawV11 | readRawV22 | readFloatV11 | readFloatV22 =>
    unfold State.command
    split <;> exact .of_eq rfl rfl
  case request =>
    exact ⟨[.drive _ _ _, .drive _ _ _, .drive _ _ _], rfl, rfl, by simp [Event.madeBy, Instr.drives]⟩
  case respLow | respHigh | dataReady | bitHi | bitLo =>
    exact .waitPhase rfl hp fun _ _ => .of_eq rfl rfl
  case check => split <;> exact .of_eq rfl rfl
  case parse11 | parse22 =>
    unfold State.present
    split <;> exact .of_eq rfl rfl
  case toFloat | delay => exact .of_eq rfl rfl
  case setdir | setlvl => exact (State.Records.pinDrive rfl s _ _).trans (.of_eq rfl rfl)
  case getlvl => exact (State.Records.afterRead rfl s).trans (.of_eq rfl rfl)
  case await => exact (State.Records.await rfl hp _ _).trans (.of_eq rfl rfl)

/-! ### Samples -/

/-- With no request outstanding, the pin is sampled in a waiting phase only. -/
theorem waiting_of_samples {s : State} {w : CodeWord} {i : Instr} (hp : s.prim = PrimReq.none)
    (hw : s.fetchWord = some w) (hd : decode w = .instr i) (hi : i.samples = true) :
    s.blk.phase ∈ [Phase.responseLow, .responseHigh, .dataReady, .bitHigh, .bitLow] := by
  rcases State.selected_of_no_request hp hw hd with hc | hm
  · exact absurd (hi.symm.trans (Instr.samples_of_cmd hc)) nofun
  · exact Instr.waiting_of_samples hi hm

@[simp] theorem State.drawn_resetDuring_self (s : State) (k : Nat) : (s.resetDuring k s).drawn = s.drawn := by
  simp [State.resetDuring, State.eventsBefore]

/-- A step never takes a sample back, and takes one in a waiting phase only, whether or not a reset cuts it
short. -/
theorem step_drawn {s t : State} (hp : s.prim = PrimReq.none) (hstep : step s = .next t) :
    s.drawn ≤ t.drawn ∧ (t.drawn ≠ s.drawn →
      s.blk.phase ∈ [Phase.responseLow, .responseHigh, .dataReady, .bitHigh, .bitLow]) := by
  obtain ⟨hv, hreset | ⟨-, -, rfl⟩ | ⟨-, w, i, hw, hd, hex⟩⟩ := step_next hstep
  · obtain ⟨k, u, -, rfl, rfl | ⟨w, i, hw, hd, hex⟩⟩ := hreset
    · simp
    · have hrec := exec_records (s := s.latched) (Config.one_le_poll hv) hex
      refine ⟨Nat.le_add_right _ _, fun hne => waiting_of_samples hp hw hd ?_⟩
      by_contra hi
      exact hne (hrec.drawn_resetDuring (Bool.eq_false_iff.mpr hi) k)
  · exact ⟨le_rfl, fun hne => absurd rfl hne⟩
  · have hrec := exec_records (s := s.latched) (Config.one_le_poll hv) hex
    refine ⟨hrec.drawn_le, fun hne => waiting_of_samples hp hw hd ?_⟩
    by_contra hi
    exact hne (hrec.drawn_eq (Bool.eq_false_iff.mpr hi))

/-- Settles O42: the step goes on because no request is outstanding, it samples in a waiting phase only, and the
invariant has the pin in input mode. -/
theorem samplesAreTakenOnlyInInputMode : Obligations.SamplesAreTakenOnlyInInputMode := by
  intro s hs
  obtain ⟨-, -, hgoes⟩ := stepRefusesOnlyWhatIsNotThisBlock s
  obtain ⟨t, hstep⟩ := hgoes hs.cfg (.inl (by simp [hs.prim, PrimReq.none]))
  obtain ⟨hle, hwait⟩ := step_drawn hs.prim hstep
  exact ⟨t, hstep, hle, fun hne => ⟨hs.blk.pin.1, hwait hne⟩⟩

/-! ### The pin trace of a decode -/

/-- R12: the table never goes back to `Request`. -/
theorem Block.Advances.phase_ne_request {b b' : Block} (h : b.Advances b') : b'.phase ≠ .request := by
  intro h'
  cases hp : b.phase <;> simp [Block.Advances, hp, h'] at h
  split at h <;> cases h

/-- R111: REQUEST's three pin actions, with their instants, and the pin released. -/
theorem execRequest_pin {s t : State} (h : exec .request s = .next t) :
    t.blk.pinOe = false ∧ t.blk.pinOut = true ∧
      t.pinTrace = s.pinTrace ++ [(s.tick, true, false), (s.tick + s.cfg.tHoldLow.toNat, true, true),
        (s.tick + s.cfg.tHoldLow.toNat + s.cfg.tReleaseHigh.toNat, false, true)] := by
  cases h
  exact ⟨rfl, rfl, by simp [State.pinTrace]⟩

/-- R18, R202: an instruction that does not drive the pin leaves the pin registers as they are. -/
theorem Block.Moves.pin_eq {rule : BitRule} {b b' : Block} {i : Instr} (h : b.Moves rule i b')
    (hi : i.drives = false) : b'.pinOe = b.pinOe ∧ b'.pinOut = b.pinOut := by
  have hr : i ≠ .request := by rintro rfl; cases hi
  exact ⟨h.pinOe_eq hr (by rintro d rfl; cases hi), h.pinOut_eq hr (by rintro l rfl; cases hi)⟩

/-- After REQUEST a decode makes no further pin action: the trace and the pin registers stay (R43, R111, R168). -/
theorem runToDone_pin (n : Nat) {s : State} (h : s.Decoding) (hr : s.blk.phase ≠ .request) :
    ∃ u, runToDone n s = .next u ∧ u.blk.pinOe = s.blk.pinOe ∧ u.blk.pinOut = s.blk.pinOut ∧
      u.pinTrace = s.pinTrace := by
  induction n generalizing s with
  | zero => exact ⟨s, rfl, rfl, rfl, rfl⟩
  | succ n ih =>
    by_cases hd : s.blk.phase = .done
    · exact ⟨s, runToDone_done hd, rfl, rfl, rfl⟩
    · obtain ⟨i, t, hi, hex, hstep, hdec, hadv⟩ := h.step hd
      obtain ⟨u, hu, hoe, hout, htrace⟩ := ih hdec hadv.phase_ne_request
      have hdrives : i.drives = false := Instr.drives_of_microPhase (microPhase_of_decodeMicroOp hi) hr
      have hpin := (exec_moves hex).pin_eq hdrives
      have hrec := exec_records (s := s.latched) (Config.one_le_poll h.cfg) hex
      refine ⟨u, (runToDone_succ hd hstep).trans hu, hoe.trans hpin.1, hout.trans hpin.2, ?_⟩
      exact htrace.trans (hrec.pinTrace_eq hdrives)

/-- Settles O45: acceptance makes no pin action, REQUEST makes its three, and the rest of the decode none. -/
theorem pinTraceDoesNotDependOnTheSamples : Obligations.PinTraceDoesNotDependOnTheSamples := by
  intro s f v hs hr
  obtain ⟨i, t, hi, hex, hstep, hdec, hadv⟩ := (hs.decoding hr).step nofun
  cases hi
  obtain ⟨hoe, hout, htrace⟩ := execRequest_pin hex
  obtain ⟨u, hu, hoe', hout', htrace'⟩ := runToDone_pin 86 hdec hadv.phase_ne_request
  exact ⟨_, u, hs.step hr, (runToDone_succ (by simp) hstep).trans hu, hoe'.trans hoe, hout'.trans hout,
    htrace'.trans htrace⟩

end Sys2Proof.Machine
end

section
/-! Noninterference of the latched command (R51, R117, R120): the handshake, the capture and CHECK commute with
writing `variant_q` and `fmt_q`. -/

namespace Sys2Proof.Machine

/-- The state with `variant_q` and `fmt_q` as given. -/
def State.relatch (v : Variant) (f : Fmt) (s : State) : State :=
  { s with blk := { s.blk with variantQ := v, fmtQ := f } }

section
variable (v : Variant) (f : Fmt)

theorem State.awaitLoop_relatch (expected : Bool) (timeout : U16) (fuel e : Nat) (s : State) :
    State.awaitLoop expected timeout fuel e (s.relatch v f) =
      ((State.awaitLoop expected timeout fuel e s).1,
        (State.awaitLoop expected timeout fuel e s).2.relatch v f) := by
  induction fuel generalizing e s with
  | zero => rfl
  | succ fuel ih =>
    simp only [State.awaitLoop, State.pinRead]
    have hread : (s.relatch v f).stream 0 = s.stream 0 := rfl
    by_cases hover : timeout.toNat < e
    · simp only [hover, if_true]
    by_cases hmatch : s.stream 0 = expected
    · simp only [hover, hread, hmatch, if_true, if_false]
      rfl
    · simp only [hover, hread, hmatch, if_false]
      exact ih (e + s.cfg.poll.toNat)
        ((s.afterRead.pass s.cfg.poll.toNat).setElapsed (e + s.cfg.poll.toNat))

theorem State.await_relatch (expected : Bool) (timeout : U16) (s : State) :
    (s.relatch v f).await expected timeout =
      ((s.await expected timeout).1, (s.await expected timeout).2.relatch v f) :=
  State.awaitLoop_relatch v f expected timeout _ 0 (s.setElapsed 0)

variable {v f}

/-- A waiting phase does the same whatever command is latched, if its continuation does. -/
theorem State.waitPhase_relatch {expected : Bool} {timeout : U16} {fail : Failure} {ok : U16 → State → State}
    (s : State) (hok : ∀ x (u : State), ok x (u.relatch v f) = (ok x u).relatch v f) :
    (s.relatch v f).waitPhase expected timeout fail ok = (s.waitPhase expected timeout fail ok).relatch v f := by
  simp only [State.waitPhase, State.await_relatch]
  obtain ⟨x | -, u⟩ := s.await expected timeout
  · exact hok x u
  · rfl

/-- R116, R117: the bit is decided and packed without looking at the command. -/
theorem Block.bitDone_relatch (b : Block) (rule : BitRule) (e : U16) :
    { b with variantQ := v, fmtQ := f }.bitDone rule e = { b.bitDone rule e with variantQ := v, fmtQ := f } := by
  unfold Block.bitDone
  split <;> rfl

end

/-- Settles O38: every micro-operation up to CHECK commutes with the relatching; the waits because their loop
does. -/
theorem captureIgnoresTheVariant : Obligations.CaptureIgnoresTheVariant := by
  intro i s t v f hi h
  change exec i (s.relatch v f) = .next (t.relatch v f)
  cases i
  case request => cases h; rfl
  case respLow | respHigh | dataReady | bitHi =>
    cases h
    exact congrArg Host.Outcome.next (s.waitPhase_relatch fun _ _ => rfl)
  case bitLo =>
    cases h
    exact congrArg Host.Outcome.next (s.waitPhase_relatch fun x u =>
      congrArg (fun b => { u with blk := b }) (u.blk.bitDone_relatch u.cfg.bitRule x))
  case check =>
    cases h
    have hframe : (s.relatch v f).blk.frame = s.blk.frame := rfl
    simp only [exec, execCheck, hframe]
    split <;> rfl
  all_goals simp at hi

end Sys2Proof.Machine
end

section
/-! The encodings (30_encoding.md R61, R64, R72, R73 and section 10): a CMD word is its two fields, a PHASE word
its variant bit and its phase code, and the codes without a meaning are exactly the reserved ones. -/

namespace Sys2Proof

/-! ### CMD words -/

/-- R61: bit 1 of a CMD word is the format. -/
@[simp] theorem cmdBits_getLsbD_one (f : Fmt) (v : Variant) : (cmdBits f v).getLsbD 1 = f.code := by
  cases f <;> cases v <;> rfl

/-- R61: bit 0 of a CMD word is the variant. -/
@[simp] theorem cmdBits_getLsbD_zero (f : Fmt) (v : Variant) : (cmdBits f v).getLsbD 0 = v.code := by
  cases f <;> cases v <;> rfl

theorem Fmt.exists_code (b : Bool) : ∃ f : Fmt, f.code = b := by
  cases b
  · exact ⟨.raw, rfl⟩
  · exact ⟨.float, rfl⟩

theorem Variant.code_ofCode (b : Bool) : (Variant.ofCode b).code = b := by
  cases b <;> rfl

/-- R61: every value of `cmd` is the word of a format and a variant. -/
theorem exists_eq_cmdBits (bits : BitVec 2) : ∃ f v, bits = cmdBits f v := by
  obtain ⟨f, hf⟩ := Fmt.exists_code (bits.getLsbD 1)
  refine ⟨f, Variant.ofCode (bits.getLsbD 0), BitVec.eq_of_getLsbD_eq fun i hi => ?_⟩
  obtain rfl | rfl : i = 0 ∨ i = 1 := by omega
  · rw [cmdBits_getLsbD_zero, Variant.code_ofCode]
  · rw [cmdBits_getLsbD_one, hf]

/-! ### PHASE words -/

@[simp] theorem Phase.ofCode_code (p : Phase) : Phase.ofCode p.code = some p := by
  cases p <;> rfl

/-- R64: a code names the phase whose code it is. -/
theorem Phase.ofCode_eq_some_iff {c : BitVec 4} {p : Phase} : Phase.ofCode c = some p ↔ c = p.code := by
  constructor
  · intro h
    unfold Phase.ofCode at h
    split at h <;> cases h <;> exact BitVec.eq_of_toNat_eq ‹_›
  · rintro rfl
    exact Phase.ofCode_code p

/-- R72: of the sixteen codes, 11 to 15 name no phase. -/
theorem Phase.ofCode_eq_none_iff : ∀ {c : BitVec 4}, Phase.ofCode c = none ↔ 11 ≤ c.toNat := by
  decide

/-- Section 10: a PHASE word is decoded by its low four bits, the phase, and bit 4, the variant. -/
theorem decode_phase (bits : BitVec 5) :
    decode (.phase bits) = (Phase.ofCode (bits.extractLsb' 0 4)).elim (.rejected .reservedPhase)
      (decodeMicroOp (Variant.ofCode (bits.getLsbD 4))) := by
  rw [decode, decodePhase]
  cases Phase.ofCode (bits.extractLsb' 0 4) <;> rfl

/-- Section 10: the word `v` followed by a phase's code decodes to the phase's micro-operation. -/
theorem decode_phase_append (b : Bool) (p : Phase) :
    decode (.phase (BitVec.ofBool b ++ p.code)) = decodeMicroOp (Variant.ofCode b) p := by
  rw [← Machine.decode_phaseWord, phaseWord, Variant.code_ofCode]

theorem decodeMicroOp_ne_reservedPhase (v : Variant) (p : Phase) :
    decodeMicroOp v p ≠ .rejected .reservedPhase := by
  cases p
  case parse => cases v <;> simp [decodeMicroOp]
  all_goals simp [decodeMicroOp]

/-- R12: `Idle` and `Done` are the phases without a micro-operation. -/
theorem decodeMicroOp_eq_noMicroOp_iff (v : Variant) (p : Phase) :
    decodeMicroOp v p = .rejected .noMicroOp ↔ p = .idle ∨ p = .done := by
  cases p
  case parse => cases v <;> simp [decodeMicroOp]
  all_goals simp [decodeMicroOp]

theorem toNat_extractLsb'_phase (bits : BitVec 5) : (bits.extractLsb' 0 4).toNat = bits.toNat % 16 := by
  simp

/-- R72: a PHASE word is rejected as reserved exactly when its code names no phase. -/
theorem decode_phase_eq_reservedPhase_iff (bits : BitVec 5) :
    decode (.phase bits) = .rejected .reservedPhase ↔ 11 ≤ bits.toNat % 16 := by
  rw [decode_phase, ← toNat_extractLsb'_phase, ← Phase.ofCode_eq_none_iff]
  cases Phase.ofCode (bits.extractLsb' 0 4) with
  | none => simp
  | some p => simpa using decodeMicroOp_ne_reservedPhase _ p

/-- R12: a PHASE word has no micro-operation exactly when its code is that of `Idle` or of `Done`. -/
theorem decode_phase_eq_noMicroOp_iff (bits : BitVec 5) :
    decode (.phase bits) = .rejected .noMicroOp ↔ bits.toNat % 16 = 0 ∨ bits.toNat % 16 = 10 := by
  have hcode (p : Phase) : Phase.ofCode (bits.extractLsb' 0 4) = some p ↔
      bits.toNat % 16 = p.code.toNat := by
    rw [Phase.ofCode_eq_some_iff, ← BitVec.toNat_inj, toNat_extractLsb'_phase]
  change _ ↔ bits.toNat % 16 = Phase.idle.code.toNat ∨ bits.toNat % 16 = Phase.done.code.toNat
  rw [decode_phase, ← hcode, ← hcode]
  cases Phase.ofCode (bits.extractLsb' 0 4) with
  | none => simp
  | some p => simpa using decodeMicroOp_eq_noMicroOp_iff _ p

/-! ### PRIM requests -/

/-- R73: PRIM code 0 requests nothing, 1 to 5 request a primitive, 6 and 7 are reserved. -/
theorem decode_prim_cases (r : PrimReq) :
    (r.code = 0 ∧ decode (.prim r) = .rejected .noRequest) ∨
    (r.code ≠ 0 ∧ r.code.toNat ≤ 5 ∧ ∃ i, decode (.prim r) = .instr i) ∨
    (6 ≤ r.code.toNat ∧ decode (.prim r) = .rejected .reservedPrim) := by
  by_cases h₀ : r.code = 0
  · exact .inl ⟨h₀, by simp [decode, decodePrim, h₀]⟩
  · obtain h₅ | h₆ := Nat.lt_or_ge 5 r.code.toNat
    · exact .inr (.inr ⟨h₅, Machine.decode_prim_reserved h₅⟩)
    · exact .inr (.inl ⟨h₀, h₆, Machine.decode_prim_instr h₀ h₆⟩)

theorem decode_prim_eq_reservedPrim_iff (r : PrimReq) :
    decode (.prim r) = .rejected .reservedPrim ↔ 6 ≤ r.code.toNat := by
  obtain ⟨hc, hd⟩ | ⟨-, hc, i, hd⟩ | ⟨hc, hd⟩ := decode_prim_cases r
  · simp [hd, hc]
  · simp only [hd, reduceCtorEq, false_iff]; omega
  · simp [hd, hc]

theorem decode_prim_eq_noRequest_iff (r : PrimReq) :
    decode (.prim r) = .rejected .noRequest ↔ r.code = 0 := by
  obtain ⟨hc, hd⟩ | ⟨hc, -, i, hd⟩ | ⟨hc, hd⟩ := decode_prim_cases r
  · simp [hd, hc]
  · simpa [hd] using hc
  · have hne : r.code ≠ 0 := fun h => by simp [h] at hc
    simpa [hd] using hne

end Sys2Proof

namespace Sys2Proof.Machine

/-! ### The statements -/

/-- Settles O1: every value of `cmd` is `cmdBits f v` for its format and variant, which decodes to their
command. -/
theorem cmdWordsDecode : Obligations.CmdWordsDecode := by
  refine ⟨decode_cmdBits .raw .v11, decode_cmdBits .raw .v22, decode_cmdBits .float .v11,
    decode_cmdBits .float .v22, fun bits => ?_⟩
  obtain ⟨f, v, rfl⟩ := exists_eq_cmdBits bits
  exact ⟨f, v, decode_cmdBits f v, cmdBits_getLsbD_one f v, cmdBits_getLsbD_zero f v⟩

/-- Settles O2: each PHASE row is the free bit followed by the code of its phase, and a PRIM code alone selects
the primitive. -/
theorem phaseAndPrimRowsDecode : Obligations.PhaseAndPrimRowsDecode := by
  refine ⟨fun v => ⟨?_, ?_, ?_, ?_, ?_, ?_, ?_, ?_⟩, decode_phase_append false .parse,
    decode_phase_append true .parse, fun b n => ⟨rfl, rfl, rfl, rfl, rfl⟩⟩
  · exact decode_phase_append v .request
  · exact decode_phase_append v .responseLow
  · exact decode_phase_append v .responseHigh
  · exact decode_phase_append v .dataReady
  · exact decode_phase_append v .bitHigh
  · exact decode_phase_append v .bitLow
  · exact decode_phase_append v .check
  · exact decode_phase_append v .toFloat

/-- Settles O3, one format at a time: a command by its two fields, a micro-operation by its phase, a primitive by
its request. -/
theorem decodeEncodeRoundTrip : Obligations.DecodeEncodeRoundTrip := by
  intro v i
  cases i
  case readRawV11 => exact decode_cmdBits .raw .v11
  case readRawV22 => exact decode_cmdBits .raw .v22
  case readFloatV11 => exact decode_cmdBits .float .v11
  case readFloatV22 => exact decode_cmdBits .float .v22
  case request => exact decode_phaseWord v .request
  case respLow => exact decode_phaseWord v .responseLow
  case respHigh => exact decode_phaseWord v .responseHigh
  case dataReady => exact decode_phaseWord v .dataReady
  case bitHi => exact decode_phaseWord v .bitHigh
  case bitLo => exact decode_phaseWord v .bitLow
  case check => exact decode_phaseWord v .check
  case parse11 => exact decode_phaseWord .v11 .parse
  case parse22 => exact decode_phaseWord .v22 .parse
  case toFloat => exact decode_phaseWord v .toFloat
  case setdir | setlvl | getlvl | delay | await => rfl

/-- Settles O4, from what each PHASE code names and from the three kinds of PRIM request. -/
theorem reservedCodesAreRejected : Obligations.ReservedCodesAreRejected :=
  ⟨decode_phase_eq_reservedPhase_iff, decode_phase_eq_noMicroOp_iff, decode_prim_eq_reservedPrim_iff,
    decode_prim_eq_noRequest_iff⟩

end Sys2Proof.Machine
end

section
/-! The timing primitive (40_timing_primitive.md R90 to R96): SETDIR, SETLVL, GETLVL and DELAY are one pin or time
operation each; AWAIT is the closed form of its loop, and its bounds are those of `POLL * k` over the samples `k`
it may take. -/

namespace Sys2Proof.Machine

/-! ### The pin and the delay -/

/-- Settles O15: SETDIR drives the pin with the level it already has. -/
theorem setdirWritesTheDirection : Obligations.SetdirWritesTheDirection := fun _ _ => rfl

/-- Settles O16: SETLVL drives the pin in the direction it already has. -/
theorem setlvlWritesTheLevel : Obligations.SetlvlWritesTheLevel := fun _ _ => rfl

/-- Settles O18: DELAY is the passing of its ticks. -/
theorem delayPassesTicks : Obligations.DelayPassesTicks := fun _ _ => rfl

/-- R44: a queued sample is the next answer of the oracle. -/
theorem State.stream_zero_of_samples_cons {s : State} {b : Bool} {rest : List Bool} (h : s.samples = b :: rest) :
    s.stream 0 = b := by
  simp [State.stream, h]

/-- Settles O17: GETLVL is one read of the oracle. -/
theorem getlvlReturnsTheNextSample : Obligations.GetlvlReturnsTheNextSample := by
  intro s
  have hqueued : ∀ b rest, s.samples = b :: rest →
      PrimResult.level (s.stream 0) = .level b ∧ s.samples.drop 1 = rest := fun b rest h =>
    ⟨by rw [State.stream_zero_of_samples_cons h], by rw [h]; rfl⟩
  exact ⟨_, rfl, rfl, rfl, rfl, rfl, rfl, rfl, s.stream_afterRead, rfl, hqueued, rfl⟩

/-! ### AWAIT -/

section
variable {s : State} {expected : Bool} {timeout : U16}

/-- R93: AWAIT reports the time of the first sample that matches. -/
theorem exec_await_of_firstAt {k : Nat} (hp : 1 ≤ s.cfg.poll.toNat)
    (h : s.firstAt expected (s.cfg.maxSamples timeout) k) :
    exec (.await expected timeout) s = .next { s.waited (k + 1) (k * s.cfg.poll.toNat) with
      ret := .pulse (.reached (BitVec.ofNat 16 (k * s.cfg.poll.toNat))) } := by
  rw [exec, execAwait, State.await_of_firstAt hp h]

/-- R93: AWAIT times out after `N(timeout)` samples none of which matches. -/
theorem exec_await_of_never (hp : 1 ≤ s.cfg.poll.toNat) (h : s.never expected (s.cfg.maxSamples timeout)) :
    exec (.await expected timeout) s = .next { s.waited (s.cfg.maxSamples timeout)
      (s.cfg.maxSamples timeout * s.cfg.poll.toNat) with ret := .pulse .timedOut } := by
  rw [exec, execAwait, State.await_of_never hp h]

end

/-- Settles O19: the closed form of AWAIT in its two cases, one of which always holds. -/
theorem awaitFindsTheFirstMatch : Obligations.AwaitFindsTheFirstMatch := fun s expected _ hp =>
  ⟨⟨fun _ => exec_await_of_firstAt hp, exec_await_of_never hp⟩, s.firstAt_or_never expected _⟩

/-- R93: the ticks of a wait that times out exceed its timeout by at most `POLL`. -/
theorem Config.maxSamples_mul_poll_le (c : Config) (timeout : U16) :
    c.maxSamples timeout * c.poll.toNat ≤ timeout.toNat + c.poll.toNat := by
  rw [Config.maxSamples, Nat.succ_mul]
  exact Nat.add_le_add_right (Nat.div_mul_le_self ..) _

/-- R14: a time that fits in 16 bits is what the register holds. -/
theorem toNat_elapsed {ticks : Nat} (h : ticks ≤ 65535) : (BitVec.ofNat 16 ticks).toNat = ticks :=
  Nat.mod_eq_of_lt (by omega)

/-- R7: a timeout that an AWAIT may have leaves room for one more poll in 16 bits. -/
theorem Instr.wf_await_iff (c : Config) (expected : Bool) (timeout : U16) :
    (Instr.await expected timeout).wf c = true ↔ timeout.toNat + c.poll.toNat ≤ 65535 := by
  simp [Instr.wf, Config.timeoutFits]

/-- Settles O20: a match at sample `k < N(timeout)` comes after `k * POLL <= timeout` ticks; without a match all
`N(timeout)` samples are taken, each followed by `POLL` ticks. -/
theorem awaitIsBounded : Obligations.AwaitIsBounded := by
  intro s expected timeout hp
  obtain ⟨k, hk⟩ | hn := s.firstAt_or_never expected (s.cfg.maxSamples timeout)
  · have hlt : k < s.cfg.maxSamples timeout := hk.1
    have hle : k * s.cfg.poll.toNat ≤ timeout.toNat := (Config.mul_poll_le_iff hp timeout k).2 hlt
    have hfits := toNat_elapsed (ticks := k * s.cfg.poll.toNat) (by omega)
    refine ⟨_, k + 1, k * s.cfg.poll.toNat, exec_await_of_firstAt hp hk, rfl, by omega, hlt, rfl, by omega, ?_,
      nofun, fun _ => hfits⟩
    rintro _ ⟨⟩
    exact ⟨hfits, hle, Nat.succ_mul ..⟩
  · have hle := Config.maxSamples_mul_poll_le s.cfg timeout
    refine ⟨_, s.cfg.maxSamples timeout, s.cfg.maxSamples timeout * s.cfg.poll.toNat,
      exec_await_of_never hp hn, rfl, Nat.le_add_left .., Nat.le_refl _, rfl, hle, nofun, fun _ => ⟨rfl, rfl⟩,
      fun hwf => ?_⟩
    rw [Instr.wf_await_iff] at hwf
    exact toNat_elapsed (by omega)

end Sys2Proof.Machine
end

section
/-! The handshake and the capture (41_handshake_capture.md R111 to R119), one micro-operation at a time: each wait
is the closed form of AWAIT with the micro-operation's own continuation, and packing writes one bit. -/

namespace Sys2Proof.Machine

/-! ### The waiting micro-operations -/

/-- R93, R98: a micro-operation that is one waiting phase waits, and fails by raising the phase's failure. What its
continuation does need only be given after a wait from `s`. -/
theorem Waits.of_waitPhase {s : State} {i : Instr} {expected : Bool} {timeout : U16} {f : Failure}
    {ok ok' : U16 → State → State} (hv : s.cfg.valid = true)
    (hex : exec i s = .next (s.waitPhase expected timeout f ok))
    (hok : ∀ x n m, ok x (s.waited n m) = ok' x (s.waited n m)) :
    Waits s i expected timeout ok' (State.raise f) := by
  have hp := Config.one_le_poll hv
  refine ⟨fun k hk => ?_, fun hn => ?_⟩
  · rw [hex, State.waitPhase_of_firstAt hp hk, hok]
  · rw [hex, State.waitPhase_of_never hp hn]

/-- Settles O22: RESP_LOW is one waiting phase. -/
theorem respLowWaitsForLow : Obligations.RespLowWaitsForLow := fun _ hv =>
  .of_waitPhase hv rfl fun _ _ _ => rfl

/-- Settles O23: RESP_HIGH is one waiting phase. -/
theorem respHighWaitsForHigh : Obligations.RespHighWaitsForHigh := fun _ hv =>
  .of_waitPhase hv rfl fun _ _ _ => rfl

/-- Settles O24: DATA_READY is one waiting phase. -/
theorem dataReadyStartsTheCapture : Obligations.DataReadyStartsTheCapture := fun _ hv =>
  .of_waitPhase hv rfl fun _ _ _ => rfl

/-- Settles O25: BIT_HI is one waiting phase. -/
theorem bitHiMeasuresTheLowPhase : Obligations.BitHiMeasuresTheLowPhase := fun _ hv =>
  .of_waitPhase hv rfl fun _ _ _ => rfl

/-- Settles O21: the three pin actions and two delays of REQUEST, written out. -/
theorem requestDrivesTheWakePulse : Obligations.RequestDrivesTheWakePulse := fun _ => rfl

/-! ### The bit -/

section
variable {b : Block} {rule : BitRule} {e : U16}

/-- R119: while `bit_idx` is below 39, the next bit follows. -/
theorem Block.bitDone_of_lt (h : b.bitIdx.val < 39) :
    b.bitDone rule e = { b with
      highDur := e, frame := setFrameBit b.frame b.bitIdx (decideBit rule b.lowDur e)
      bitIdx := ⟨b.bitIdx.val + 1, by omega⟩, phase := .bitHigh } := dif_pos h

/-- R119: after bit 39 CHECK follows, with `bit_idx` staying 39. -/
theorem Block.bitDone_of_last (h : b.bitIdx = 39) :
    b.bitDone rule e = { b with
      highDur := e, frame := setFrameBit b.frame b.bitIdx (decideBit rule b.lowDur e), phase := .check } :=
  dif_neg (by simp [h])

end

/-- Settles O26: BIT_LO is one waiting phase, whose continuation is the loop test's branch for `bit_idx`. -/
theorem bitLoDecidesAndPacksTheBit : Obligations.BitLoDecidesAndPacksTheBit := by
  refine fun s hv => ⟨fun h => ?_, fun h => ?_⟩
  · exact .of_waitPhase hv rfl fun x n m => by rw [Block.bitDone_of_lt (b := (s.waited n m).blk) h]; rfl
  · rw [← h]
    exact .of_waitPhase hv rfl fun x n m => by rw [Block.bitDone_of_last (b := (s.waited n m).blk) h]; rfl

/-- Settles O27: under the relative rule the decision is the strict comparison of `decideRelative`. -/
theorem bitDecisionIsStrict : Obligations.BitDecisionIsStrict := by
  intro lo hi
  calc decideBit .relative lo hi = true
      ↔ decideRelative lo hi = true := Iff.rfl
    _ ↔ lo.toNat < hi.toNat := decide_eq_true_iff

/-! ### Packing -/

/-- R65, R66: byte `k` holds the frame's bits from `32 - 8 * k` up. -/
theorem getLsbD_frameByte (f : Frame) (k : ByteIdx) {j : Nat} (hj : j < 8) :
    (frameByte f k).getLsbD j = f.getLsbD (32 - 8 * k.val + j) := by
  simp [frameByte, hj]

/-- Settles O29: the bits are those of `setFrameBit`, and bit `7 - i % 8` of byte `i / 8` is `frame[39 - i]`. -/
theorem packingWritesExactlyOneBit : Obligations.PackingWritesExactlyOneBit := by
  refine fun f i b => ⟨fun j hj => getLsbD_setFrameBit f i b hj, fun k hk => ?_⟩
  have hplace : 32 - 8 * k.val + (7 - i.val % 8) = 39 - i.val := by omega
  rw [getLsbD_frameByte _ _ (by omega), hplace, getLsbD_setFrameBit _ _ _ (by omega), if_pos rfl]

end Sys2Proof.Machine
end

section
/-! The integer reading of a captured frame: the reference's `parse` (42_checksum_parser.md R146) is the checksum
test of CHECK and the register computations of the parsers, read as signed integers. -/

namespace Sys2Proof.Machine

/-- What the parser of variant `v` writes to the two integer registers (R141, R142). -/
def payload (v : Variant) (f : Frame) : U16 × U16 :=
  match v with
  | .v11 => (humidity11 f, temperature11 f)
  | .v22 => (humidity22 f, temperature22 f)

/-- R27: the signed reading of a register. -/
theorem sext_eq (w : U16) : sext w = if 32768 ≤ w.toNat then (w.toNat : Int) - 65536 else w.toNat := by
  rw [sext, BitVec.toInt_eq_toNat_cond]
  split <;> split <;> omega

/-- R67: a byte in tenths stays far below the sign bit. -/
theorem sext_byteTenths (b : Byte) : sext (byteTenths b) = b.toNat * 10 := by
  have hb := b.isLt
  have hnat : (byteTenths b).toNat = b.toNat * 10 := by
    simp [byteTenths, BitVec.toNat_mul]
    omega
  rw [sext_eq, hnat, if_neg (by omega)]
  simp

/-- R68: two bytes, big-endian. -/
theorem toNat_append_bytes (hi lo : Byte) : (hi ++ lo : U16).toNat = hi.toNat * 256 + lo.toNat := by
  rw [BitVec.toNat_append, ← Nat.shiftLeft_add_eq_or_of_lt lo.isLt, Nat.shiftLeft_eq]

/-- R142, R143: the top bit is the sign, the other fifteen the magnitude. -/
theorem sext_ofSignMagnitude (raw : U16) :
    sext (ofSignMagnitude raw) =
      if 32768 ≤ raw.toNat then -((raw.toNat % 32768 : Nat) : Int) else raw.toNat := by
  have hsign : raw.getLsbD 15 = decide (32768 ≤ raw.toNat) := by
    rw [← BitVec.msb_eq_getLsbD_last (x := raw), BitVec.msb_eq_decide]
  have hmag : (raw &&& 0x7FFF).toNat = raw.toNat % 32768 := Nat.and_two_pow_sub_one_eq_mod raw.toNat 15
  rw [ofSignMagnitude, hsign]
  by_cases h : 32768 ≤ raw.toNat
  · have hneg : (0 - (raw &&& 0x7FFF)).toNat = (65536 - raw.toNat % 32768) % 65536 := by
      rw [BitVec.toNat_sub, hmag]
      rfl
    simp only [h, decide_true, if_true, sext_eq, hneg]
    split <;> omega
  · simp only [h, decide_false, Bool.false_eq_true, if_false, sext_eq]

/-- R68, R145: the humidity of Variant22 is the signed reading of its two bytes. -/
theorem sext_humidity22 (f : Frame) :
    sext (humidity22 f) =
      if 32768 ≤ (frameByte f 0).toNat * 256 + (frameByte f 1).toNat
      then (((frameByte f 0).toNat * 256 + (frameByte f 1).toNat : Nat) : Int) - 65536
      else ((frameByte f 0).toNat * 256 + (frameByte f 1).toNat : Nat) := by
  rw [humidity22, sext_eq, toNat_append_bytes]

/-- R68, R142: the temperature of Variant22 is the sign-magnitude reading of its two bytes. -/
theorem sext_temperature22 (f : Frame) :
    sext (temperature22 f) =
      if 32768 ≤ (frameByte f 2).toNat * 256 + (frameByte f 3).toNat
      then -((((frameByte f 2).toNat * 256 + (frameByte f 3).toNat) % 32768 : Nat) : Int)
      else ((frameByte f 2).toNat * 256 + (frameByte f 3).toNat : Nat) := by
  rw [temperature22, rawTemperature22, sext_ofSignMagnitude, toNat_append_bytes]

/-- R140: the checksum test on integers. -/
theorem csOk_iff (f : Frame) :
    csOk f = true ↔ ((frameByte f 0).toNat + (frameByte f 1).toNat + (frameByte f 2).toNat +
      (frameByte f 3).toNat) % 256 = (frameByte f 4).toNat := by
  rw [csOk, beq_iff_eq, ← BitVec.toNat_inj]
  simp [checkSum, BitVec.toNat_add]

/-- R146: `parse` on a frame is CHECK's test and the parser's registers read as signed integers. -/
theorem parseFrame_eq (v : Variant) (f : Frame) :
    parseFrame v f =
      if csOk f then .ok (sext (payload v f).1, sext (payload v f).2) else .error .checksumMismatch := by
  unfold parseFrame parse
  by_cases h : csOk f = true
  · rw [if_neg (not_not_intro ((csOk_iff f).1 h)), if_pos h]
    cases v with
    | v11 => simp [payload, humidity11, temperature11, sext_byteTenths]
    | v22 =>
      simp only [payload, sext_humidity22, sext_temperature22]
  · rw [if_pos (mt (csOk_iff f).2 h), if_neg h]

end Sys2Proof.Machine
end

section
/-! A whole decode (41_handshake_capture.md section 5, 43_commands.md section 4): the steps of the machine compute
the reference functions. Both sides are made of waits, so one lemma relates a wait of the machine to a wait of the
reference (`State.ReadsAt.wait`), with the samples and ticks it takes; the capture is 83 of them, and CHECK, PARSE
and TOFLOAT end the decode. -/

namespace Sys2Proof.Machine

/-! ### The reference as a sequence of waits -/

/-- After one wait of the reference, go on with its elapsed ticks and its position, or fail. -/
def Taken.andThen (w : Taken) (fail : Failure) (rest : Nat → Nat → Captured) : Captured :=
  match w.elapsed with
  | some e => rest e w.pos
  | none   => { result := .error fail, pos := w.pos }

section
variable (c : Config) (σ : Stream)

/-- R120: one bit of the capture is a wait for high and a wait for low. -/
theorem captureBits_succ {n : Nat} (pos : Nat) (fr : Frame) {i : BitIdx} (hi : i.val + n = 39) :
    captureBits c σ (n + 1) pos fr =
      (take c σ pos true c.tBitHigh).andThen (.timeoutAwaitingBit i) fun lo p =>
        (take c σ p false c.tBitLow).andThen (.timeoutAwaitingBit i) fun hi p' =>
          captureBits c σ n p' (setFrameBit fr i (decideDur c.bitRule lo hi)) := by
  have hlt : 39 - n < 40 := by omega
  obtain rfl : i = ⟨39 - n, hlt⟩ := Fin.ext (by simp; omega)
  rw [captureBits]
  obtain ⟨_ | lo, p⟩ := take c σ pos true c.tBitHigh
  · rfl
  · simp only [Taken.andThen]
    obtain ⟨_ | hi, p'⟩ := take c σ p false c.tBitLow <;> rfl

/-- R120: the three waits of the response, and the bits. -/
theorem capture_eq :
    capture c σ =
      (take c σ 0 false c.tRespLow).andThen .timeoutAwaitingResponseLow fun _ p =>
        (take c σ p true c.tRespHigh).andThen .timeoutAwaitingResponseHigh fun _ p =>
          (take c σ p false c.tDataStart).andThen .timeoutAwaitingDataStart fun _ p =>
            captureBits c σ 40 p 0 := by
  rw [capture]
  obtain ⟨_ | _, p⟩ := take c σ 0 false c.tRespLow
  · rfl
  · simp only [Taken.andThen]
    obtain ⟨_ | _, p'⟩ := take c σ p true c.tRespHigh
    · rfl
    · simp only
      obtain ⟨_ | _, p''⟩ := take c σ p' false c.tDataStart <;> rfl

end

/-- The Reading of two integers in tenths: as they are, or as the binary32 quotients (R166). -/
def readingOf (f : Fmt) (hum temp : Int) : Reading :=
  match f with
  | .raw   => .tenths hum temp
  | .float => .floats (rn32Tenths hum) (rn32Tenths temp)

/-- The outcome of a command whose capture ended in `r` (R166, R167). -/
def outcomeOf (f : Fmt) (v : Variant) (r : Except Failure Frame) : DecodeOutcome :=
  match r.bind (parseFrame v) with
  | .ok (h, t) => .ok (readingOf f h t)
  | .error e   => .err e

/-- R167: `read_raw` and `read_float` look at nothing but the end of the capture. -/
theorem readOutcome_eq (c : Config) (f : Fmt) (v : Variant) (σ : Stream) :
    readOutcome c f v σ = outcomeOf f v (capture c σ).result := by
  have hraw : readRaw c v σ = (capture c σ).result.bind (parseFrame v) := by
    rw [readRaw]
    cases (capture c σ).result <;> rfl
  cases f <;> simp only [readOutcome, readFloat, hraw, outcomeOf] <;>
    cases (capture c σ).result.bind (parseFrame v) <;> rfl

/-- R140, R146, R166: a captured frame gives the Reading of its parser's integers, or a checksum failure. -/
theorem outcomeOf_ok (f : Fmt) (v : Variant) (fr : Frame) :
    outcomeOf f v (.ok fr) =
      if csOk fr then .ok (readingOf f (sext (payload v fr).1) (sext (payload v fr).2))
      else .err .checksumMismatch := by
  cases hc : csOk fr <;> simp [outcomeOf, Except.bind, parseFrame_eq, hc]

/-! ### Steps of a decode -/

/-- The micro-operation of a decode's phase is its next step. -/
theorem State.Decoding.runs {s t : State} {i : Instr} (h : s.Decoding)
    (hi : decodeMicroOp s.blk.variantQ s.blk.phase = .instr i) (hex : exec i s.latched = .next t) :
    t.Decoding ∧ ∀ n, runToDone (n + 1) s = runToDone n t := by
  have hbusy := Block.ready_of_microOp hi
  have hd : s.blk.phase ≠ .done := fun hp => by simp [Block.ready, hp] at hbusy
  obtain ⟨i', t', hi', hex', hstep, hdec, -⟩ := h.step hd
  obtain rfl : i = i' := by simpa [hi] using hi'
  obtain rfl : t = t' := by simpa [hex] using hex'
  exact ⟨hdec, fun n => runToDone_succ hd hstep⟩

/-- A decode with configuration `c` whose next sample is the one at `pos` of the stream `σ`. -/
structure State.ReadsAt (s : State) (c : Config) (σ : Stream) (pos : Nat) : Prop where
  decoding : s.Decoding
  cfg      : s.cfg = c
  stream   : ∀ k, s.stream k = σ (pos + k)

/-- The first match is found on either stream. -/
theorem State.ReadsAt.firstMatch_eq {s : State} {c : Config} {σ : Stream} {pos : Nat} (h : s.ReadsAt c σ pos)
    (expected : Bool) (n : Nat) : firstMatch s.stream expected n 0 = firstMatch σ expected n pos := by
  ext k
  simp [firstMatch_some, h.stream]

/-- The registers of a decode that serves the command `f`, `v` and has not failed. -/
def Block.Serves (b : Block) (f : Fmt) (v : Variant) : Prop :=
  b.fmtQ = f ∧ b.variantQ = v ∧ b.status = .ok

/-- The registers at the end of a capture with result `r`: in CHECK with the frame, or in `Done` with the failure. -/
def Block.EndsCapture (b : Block) (f : Fmt) (v : Variant) : Except Failure Frame → Prop
  | .ok fr   => b.phase = .check ∧ b.frame = fr ∧ b.Serves f v
  | .error e => b.outcome = some (.err e)

/-- From `s`, with `r` waits to go that take at most `m` samples in all, the machine comes to `t` as the reference
`w` says, in `q` polls. A wait that succeeds takes one sample more than it takes polls, so a capture that succeeds
takes `q + r` samples. -/
structure State.CapturesTo (s : State) (f : Fmt) (v : Variant) (pos r m : Nat) (w : Captured) (t : State)
    (q : Nat) : Prop where
  run      : ∀ n, runToDone (r + n) s = runToDone n t
  decoding : t.Decoding
  ends     : t.blk.EndsCapture f v w.result
  drawn    : t.drawn + pos = s.drawn + w.pos
  tick     : t.tick = s.tick + q * s.cfg.poll.toNat
  samples  : w.pos ≤ pos + m
  polls    : q + r ≤ m + 1
  exact    : ∀ fr, w.result = .ok fr → q + r + pos = w.pos

/-- R180: a failure is the outcome read. -/
theorem Block.outcome_raise (b : Block) (e : Failure) : (b.raise e).outcome = some (.err e) := by
  cases e <;> rfl

theorem Block.phase_of_outcome {b : Block} {o : DecodeOutcome} (h : b.outcome = some o) : b.phase = .done := by
  unfold Block.outcome at h
  split at h
  case isTrue hd => simpa [Block.done] using hd
  case isFalse => cases h

section
variable {s : State} {c : Config} {σ : Stream} {pos : Nat} {f : Fmt} {v : Variant}

/-- R93: every wait may take a sample. -/
theorem Config.one_le_maxSamples (c : Config) (timeout : U16) : 1 ≤ c.maxSamples timeout := Nat.le_add_left ..

/-- R125: the samples that `n` bits may take are enough for their `2 * n` waits. -/
theorem Config.two_mul_le_bitSamples (c : Config) (n : Nat) :
    2 * n ≤ n * (c.maxSamples c.tBitHigh + c.maxSamples c.tBitLow) := by
  rw [Nat.mul_comm]
  exact Nat.mul_le_mul_left n (Nat.add_le_add (Config.one_le_maxSamples c _) (Config.one_le_maxSamples c _))

/-- A wait of the machine is a wait of the reference (R93, R120): it goes on after the first match, having taken one
sample more than it let polls pass, or fails after the last sample. -/
theorem State.ReadsAt.wait {i : Instr} {expected : Bool} {timeout : U16} {fail : Failure} {r m : Nat}
    {rest : Nat → Nat → Captured} {g : Config → U16 → Block → Block} (h : s.ReadsAt c σ pos)
    (hi : decodeMicroOp s.blk.variantQ s.blk.phase = .instr i)
    (hex : exec i s.latched =
      .next (s.latched.waitPhase expected timeout fail fun x u => { u with blk := g u.cfg x u.blk }))
    (hr : r ≤ m)
    (hrest : ∀ (e p : Nat) (el : U16) (t : State), e ≤ timeout.toNat → t.ReadsAt c σ p →
      t.blk = g c (BitVec.ofNat 16 e) { s.blk with elapsed := el } →
      ∃ u q, t.CapturesTo f v p r m (rest e p) u q) :
    ∃ u q, s.CapturesTo f v pos (r + 1) (c.maxSamples timeout + m)
      ((take c σ pos expected timeout).andThen fail rest) u q := by
  have hfirst := h.firstMatch_eq expected
  obtain ⟨hdec, rfl, hstream⟩ := h
  have hp : 1 ≤ s.latched.cfg.poll.toNat := Config.one_le_poll hdec.cfg
  rw [take, ← hfirst]
  cases hm : firstMatch s.stream expected (s.cfg.maxSamples timeout) 0 with
  | some k =>
    have hk : s.latched.firstAt expected (s.latched.cfg.maxSamples timeout) k := (State.firstAt_iff ..).2 hm
    rw [State.waitPhase_of_firstAt hp hk] at hex
    obtain ⟨htdec, hrun⟩ := hdec.runs hi hex
    have hlt : k < s.cfg.maxSamples timeout := hk.1
    have hat := State.ReadsAt.mk (c := s.cfg) (σ := σ) (pos := pos + k + 1) htdec rfl fun j =>
      (State.stream_waited s.latched (k + 1) (k * s.cfg.poll.toNat) j).trans
        ((hstream _).trans (congrArg σ (by omega)))
    obtain ⟨u, q, hu⟩ := hrest (k * s.cfg.poll.toNat) _ _ _ ((Config.mul_poll_le_iff hp timeout k).2 hlt) hat rfl
    have hdrawn : u.drawn + (pos + k + 1) = s.drawn + (k + 1) + _ := hu.drawn
    have hsamples := hu.samples
    have hpolls := hu.polls
    simp only [Taken.andThen]
    refine ⟨u, k + q, fun n => ?_, hu.decoding, hu.ends, by omega, ?_, by omega, by omega, fun fr hfr => ?_⟩
    · rw [Nat.add_right_comm, hrun, hu.run]
    · rw [hu.tick, Nat.add_mul, ← Nat.add_assoc]
      rfl
    · have := hu.exact fr hfr
      omega
  | none =>
    have hn : s.latched.never expected (s.latched.cfg.maxSamples timeout) := (State.never_iff ..).2 hm
    rw [State.waitPhase_of_never hp hn] at hex
    obtain ⟨htdec, hrun⟩ := hdec.runs hi hex
    have hdrawn : s.drawn + s.cfg.maxSamples timeout + pos = s.drawn + (pos + s.cfg.maxSamples timeout) := by omega
    have hsamples : pos + s.cfg.maxSamples timeout ≤ pos + (s.cfg.maxSamples timeout + m) := by omega
    refine ⟨_, s.cfg.maxSamples timeout, fun n => ?_, htdec, Block.outcome_raise _ _, hdrawn, rfl,
      hsamples, by omega, nofun⟩
    rw [Nat.add_right_comm, hrun, runToDone_done rfl, runToDone_done rfl]

/-! ### The capture -/

/-- With `n` bits still to capture: in BIT_HI for the next of them, or in CHECK. -/
def Block.BitsLeft (b : Block) : Nat → Prop
  | 0     => b.phase = .check
  | n + 1 => b.phase = .bitHigh ∧ b.bitIdx.val + n = 39

theorem Block.frame_bitDone (b : Block) (rule : BitRule) (e : U16) :
    (b.bitDone rule e).frame = setFrameBit b.frame b.bitIdx (decideBit rule b.lowDur e) := by
  unfold Block.bitDone
  split <;> rfl

theorem Block.Serves.bitDone {b : Block} (h : b.Serves f v) (rule : BitRule) (e : U16) :
    (b.bitDone rule e).Serves f v := by
  unfold Block.bitDone
  split <;> exact h

/-- R119: BIT_LO leaves one bit less to capture. -/
theorem Block.bitsLeft_bitDone {b : Block} {n : Nat} (h : b.bitIdx.val + n = 39) (rule : BitRule) (e : U16) :
    (b.bitDone rule e).BitsLeft n := by
  cases n with
  | zero => rw [Block.bitDone_of_last (Fin.ext h)]; rfl
  | succ n =>
    rw [Block.bitDone_of_lt (by omega)]
    exact ⟨rfl, by simp; omega⟩

/-- R14, R15: on durations that fit in 16 bits the registers decide as the integers do. -/
theorem decideBit_ofNat (rule : BitRule) {lo hi : Nat} (hlo : lo ≤ 65535) (hhi : hi ≤ 65535) :
    decideBit rule (BitVec.ofNat 16 lo) (BitVec.ofNat 16 hi) = decideDur rule lo hi := by
  cases rule <;> simp only [decideBit, decideRelative, decideFixed, decideDur, toNat_elapsed hlo, toNat_elapsed hhi]

/-- R120: from BIT_HI on, the machine captures the bits that are left. -/
theorem State.ReadsAt.captureBits (n : Nat) (h : s.ReadsAt c σ pos) (hs : s.blk.Serves f v)
    (hb : s.blk.BitsLeft n) :
    ∃ t q, s.CapturesTo f v pos (2 * n) (n * (c.maxSamples c.tBitHigh + c.maxSamples c.tBitLow))
      (captureBits c σ n pos s.blk.frame) t q := by
  induction n generalizing s pos with
  | zero =>
    exact ⟨s, 0, fun n => by simp, h.decoding, ⟨hb, rfl, hs⟩, rfl, by simp, by simp [Machine.captureBits],
      by simp, fun _ _ => by simp [Machine.captureBits]⟩
  | succ n ih =>
    obtain ⟨hphase, hidx⟩ := hb
    have hsteps := Config.two_mul_le_bitSamples c n
    have hlow := Config.one_le_maxSamples c c.tBitLow
    have hbound : (n + 1) * (c.maxSamples c.tBitHigh + c.maxSamples c.tBitLow) =
        c.maxSamples c.tBitHigh + (c.maxSamples c.tBitLow +
          n * (c.maxSamples c.tBitHigh + c.maxSamples c.tBitLow)) := by
      rw [Nat.succ_mul]; omega
    rw [captureBits_succ c σ pos s.blk.frame hidx, hbound, show 2 * (n + 1) = 2 * n + 1 + 1 by omega]
    refine h.wait (i := .bitHi) (g := fun _ x b => { b with lowDur := x, phase := .bitLow }) (by rw [hphase]; rfl)
      (by rw [← h.cfg]; rfl) (by omega) fun lo p el t hlo ht hblk => ?_
    have hbit : t.blk.bitIdx = s.blk.bitIdx := by rw [hblk]
    refine ht.wait (i := .bitLo) (g := fun c x b => b.bitDone c.bitRule x) (by rw [hblk]; rfl)
      (by rw [← ht.cfg, ← hbit]; rfl) hsteps fun hi p' el' t' hhi ht' hblk' => ?_
    have hlt := c.tBitHigh.isLt
    have hlt' := c.tBitLow.isLt
    have hframe : t'.blk.frame = setFrameBit s.blk.frame s.blk.bitIdx (decideDur c.bitRule lo hi) := by
      rw [hblk', Block.frame_bitDone, hblk, decideBit_ofNat _ (by omega) (by omega)]
    rw [← hframe]
    refine ih ht' ?_ ?_
    · rw [hblk']
      have hserves : t.blk.Serves f v := by rw [hblk]; exact hs
      exact Block.Serves.bitDone (b := { t.blk with elapsed := el' }) hserves _ _
    · rw [hblk']
      exact Block.bitsLeft_bitDone (by simpa [hbit] using hidx) _ _

/-- R120, R123, R125: from RESP_LOW on, the machine runs the reference's capture: 83 waits. -/
theorem State.ReadsAt.capture (h : s.ReadsAt c σ 0) (hs : s.blk.Serves f v) (hphase : s.blk.phase = .responseLow)
    (hframe : s.blk.frame = 0) :
    ∃ t q, s.CapturesTo f v 0 83 c.maxDecodeSamples (capture c σ) t q := by
  have hhigh := Config.one_le_maxSamples c c.tRespHigh
  have hdata := Config.one_le_maxSamples c c.tDataStart
  have hbits := Config.two_mul_le_bitSamples c 40
  rw [capture_eq, Config.maxDecodeSamples, Nat.add_assoc, Nat.add_assoc]
  refine h.wait (i := .respLow) (g := fun _ _ b => { b with phase := .responseHigh }) (by rw [hphase]; rfl)
    (by rw [← h.cfg]; rfl) (by omega) fun _ _ _ t _ ht hblk => ?_
  refine ht.wait (i := .respHigh) (g := fun _ _ b => { b with phase := .dataReady }) (by rw [hblk]; rfl)
    (by rw [← ht.cfg]; rfl) (by omega) fun _ _ _ t' _ ht' hblk' => ?_
  refine ht'.wait (i := .dataReady) (g := fun _ _ b => { b with bitIdx := 0, phase := .bitHigh })
    (by rw [hblk']; rfl) (by rw [← ht'.cfg]; rfl) hbits fun _ _ _ u _ hu hblk'' => ?_
  rw [hblk] at hblk'
  rw [hblk'] at hblk''
  have hframe' : u.blk.frame = 0 := by rw [hblk'']; exact hframe
  rw [← hframe']
  refine hu.captureBits 40 ?_ ?_
  · rw [hblk'']; exact hs
  · rw [hblk'']; exact ⟨rfl, rfl⟩

/-! ### The end of a decode -/

/-- R166: after a READ_RAW that succeeded the outcome is the integers. -/
theorem Block.outcome_raw {b : Block} (hd : b.phase = .done) (hs : b.status = .ok) (hf : b.fmtQ = .raw) :
    b.outcome = some (.ok (.tenths (sext b.humTenths) (sext b.tempTenths))) := by
  simp [Block.outcome, Block.done, hd, hs, hf]

/-- R166: after a READ_FLOAT that succeeded the outcome is the floats. -/
theorem Block.outcome_float {b : Block} (hd : b.phase = .done) (hs : b.status = .ok) (hf : b.fmtQ = .float) :
    b.outcome = some (.ok (.floats b.humF32 b.tempF32)) := by
  simp [Block.outcome, Block.done, hd, hs, hf]

/-- R141, R142: the parser of variant `v` presents its payload. -/
theorem exec_parse (v : Variant) (s : State) :
    ∃ i, decodeMicroOp v .parse = .instr i ∧
      exec i s = .next (s.present (payload v s.blk.frame).1 (payload v s.blk.frame).2) := by
  cases v <;> exact ⟨_, rfl, rfl⟩

/-- R141, R142, R150: from PARSE on, the decode ends with the Reading of the parser's integers. -/
theorem State.Decoding.parse {s : State} (h : s.Decoding) (hp : s.blk.phase = .parse) (hs : s.blk.Serves f v) :
    ∃ t, runToDone 2 s = .next t ∧ t.blk.phase = .done ∧ t.drawn = s.drawn ∧ t.tick = s.tick ∧
      t.blk.outcome = some (.ok (readingOf f (sext (payload v s.blk.frame).1) (sext (payload v s.blk.frame).2))) := by
  obtain ⟨i, hi, hex⟩ := exec_parse v s.latched
  obtain ⟨hf, hv, hs⟩ := hs
  obtain ⟨ht, hrun⟩ := h.runs (by rw [hp, hv]; exact hi) hex
  have hfmt : s.latched.blk.fmtQ = f := hf
  cases f with
  | raw =>
    simp only [State.present, hfmt] at ht hrun
    exact ⟨_, (hrun 1).trans (runToDone_done rfl), rfl, rfl, rfl, Block.outcome_raw rfl hs rfl⟩
  | float =>
    simp only [State.present, hfmt] at ht hrun
    obtain ⟨-, hrun'⟩ := ht.runs (i := .toFloat) rfl rfl
    exact ⟨_, (hrun 1).trans (hrun' 0), rfl, rfl, rfl, Block.outcome_float rfl hs rfl⟩

/-- R140: CHECK, and what follows it, take neither a sample nor a tick, and end the decode in the outcome the
frame or the failure has. -/
theorem State.Decoding.finish {s : State} (h : s.Decoding) {r : Except Failure Frame}
    (he : s.blk.EndsCapture f v r) :
    ∃ t, runToDone 3 s = .next t ∧ t.blk.phase = .done ∧ t.drawn = s.drawn ∧ t.tick = s.tick ∧
      t.blk.outcome = some (outcomeOf f v r) := by
  cases r with
  | error e =>
    have hd := Block.phase_of_outcome he
    exact ⟨s, runToDone_done hd, hd, rfl, rfl, he⟩
  | ok fr =>
    obtain ⟨hp, rfl, hs⟩ := he
    have hcheck : exec .check s.latched = .next
        (if csOk s.blk.frame then s.latched.goto .parse else s.latched.raise .checksumMismatch) := rfl
    obtain ⟨ht, hrun⟩ := h.runs (by rw [hp]; rfl) hcheck
    rw [outcomeOf_ok]
    cases hc : csOk s.blk.frame with
    | false =>
      simp only [hc, Bool.false_eq_true, if_false] at ht hrun ⊢
      exact ⟨_, (hrun 2).trans (runToDone_done rfl), rfl, rfl, rfl, Block.outcome_raise _ _⟩
    | true =>
      simp only [hc, if_true] at ht hrun ⊢
      obtain ⟨t, hrun', hd, hdrawn, htick, ho⟩ := ht.parse rfl hs
      exact ⟨t, (hrun 2).trans hrun', hd, hdrawn, htick, ho⟩

/-! ### The whole decode -/

/-- The decode of the command `f`, `v` that `s` accepts in `t` ends in `u` as the reference functions say, `q` polls
after REQUEST's delays. -/
structure State.DecodesTo (s : State) (f : Fmt) (v : Variant) (t u : State) (q : Nat) : Prop where
  accept  : Machine.step s = .next t
  run     : runToDone 87 t = .next u
  done    : u.blk.phase = .done
  outcome : u.blk.outcome = some (readOutcome s.cfg f v s.stream)
  drawn   : u.drawn = s.drawn + (capture s.cfg s.stream).pos
  tick    : u.tick = s.tick + s.cfg.requestTicks + q * s.cfg.poll.toNat
  samples : (capture s.cfg s.stream).pos ≤ s.cfg.maxDecodeSamples
  polls   : q + 83 ≤ s.cfg.maxDecodeSamples + 1
  exact   : ∀ fr, (capture s.cfg s.stream).result = .ok fr → q + 83 = (capture s.cfg s.stream).pos

/-- R110: a decode is its acceptance, REQUEST, the 83 waits of the capture, and what follows CHECK. -/
theorem State.Accepting.decode (h : s.Accepting f v) (hr : s.noReset) : ∃ t u q, s.DecodesTo f v t u q := by
  obtain ⟨ht, hrun⟩ := (h.decoding hr).runs (i := .request) rfl (requestDrivesTheWakePulse _)
  obtain ⟨w, q, hw⟩ := State.ReadsAt.capture (σ := s.stream) (f := f) (v := v)
    ⟨ht, rfl, fun k => by rw [Nat.zero_add]; rfl⟩ ⟨rfl, rfl, rfl⟩ rfl rfl
  obtain ⟨u, hrun', hdone, hdrawn, htick, hout⟩ := hw.decoding.finish hw.ends
  exact ⟨_, u, q, {
    accept := h.step hr
    run := by rw [hrun 86, hw.run 3, hrun']
    done := hdone
    outcome := by rw [hout, readOutcome_eq]; rfl
    drawn := hdrawn.trans hw.drawn
    tick := by rw [htick, hw.tick]; simp [Config.requestTicks, Nat.add_assoc]
    samples := by simpa using hw.samples
    polls := hw.polls
    exact := hw.exact }⟩

end

/-- Settles O43: the machine's waits are the reference's, and CHECK, PARSE and TOFLOAT read the captured frame as
`parse` does. -/
theorem decodeMatchesTheReferenceFunctions : Obligations.DecodeMatchesTheReferenceFunctions := by
  intro s f v h hr
  obtain ⟨t, u, q, hd⟩ := h.decode hr
  exact ⟨t, u, hd.accept, hd.run, hd.done, hd.outcome⟩

/-- Settles O44: the polls of a decode are its samples less one for each wait that succeeded, and all 83 do when the
capture succeeds. -/
theorem decodeEndsWithinItsTimeouts : Obligations.DecodeEndsWithinItsTimeouts := by
  intro s f v h hr
  obtain ⟨t, u, q, hd⟩ := h.decode hr
  have hpolls := hd.polls
  refine ⟨t, u, q * s.cfg.poll.toNat, hd.accept, hd.run, hd.done, hd.drawn, hd.samples, hd.tick,
    Nat.mul_le_mul_right _ (by omega), fun fr hfr => ?_⟩
  have hq := hd.exact fr hfr
  exact ⟨by omega, by rw [← hq, Nat.add_sub_cancel]⟩

end Sys2Proof.Machine
end

section
/-! The payload micro-operations on a frame given as its five bytes (42_checksum_parser.md R140 to R146). -/

namespace Sys2Proof.Machine

/-! ### The bytes of a frame -/

/-- A byte appended below a bit vector. -/
theorem toNat_append_byte {w : Nat} (f : BitVec w) (b : Byte) : (f ++ b).toNat = f.toNat * 256 + b.toNat := by
  rw [BitVec.toNat_append, ← Nat.shiftLeft_add_eq_or_of_lt b.isLt, Nat.shiftLeft_eq]

/-- R65: the frame holds its bytes in order, the first in the most significant place. -/
theorem frameByte_append (b0 b1 b2 b3 b4 : Byte) (k : ByteIdx) :
    frameByte (b0 ++ b1 ++ b2 ++ b3 ++ b4 : Frame) k = ![b0, b1, b2, b3, b4] k := by
  have h0 := b0.isLt
  have h1 := b1.isLt
  have h2 := b2.isLt
  have h3 := b3.isLt
  have h4 := b4.isLt
  apply BitVec.eq_of_toNat_eq
  rw [frameByte, BitVec.extractLsb'_toNat, Nat.shiftRight_eq_div_pow]
  simp only [toNat_append_byte]
  fin_cases k <;> simp <;> omega

/-- R141: a byte in tenths fits the register. -/
theorem toNat_byteTenths (b : Byte) : (byteTenths b).toNat = b.toNat * 10 := by
  have hb := b.isLt
  simp [byteTenths, BitVec.toNat_mul]
  omega

/-! ### Presenting a Reading -/

section
variable {s : State} (hum temp : U16)

/-- R141, R142: READ_FLOAT goes on to TOFLOAT. -/
theorem State.present_of_float (h : s.blk.fmtQ = .float) :
    s.present hum temp = { s with blk := { s.blk with
      humTenths := hum, tempTenths := temp, resultValid := true, phase := .toFloat } } := by
  simp only [State.present, h]
  rfl

/-- R141, R142, R168: READ_RAW is done, and its frame is cleared. -/
theorem State.present_of_raw (h : s.blk.fmtQ = .raw) :
    s.present hum temp = { s with blk := { s.blk with
      humTenths := hum, tempTenths := temp, resultValid := true, phase := .done, frame := 0 } } := by
  simp only [State.present, h]
  rfl

end

/-! ### The instructions -/

section
variable (s : State)

/-- R140. -/
theorem exec_check :
    exec .check s = .next (if csOk s.blk.frame then s.goto .parse else s.raise .checksumMismatch) := rfl

/-- R141. -/
theorem exec_parse11 :
    exec .parse11 s = .next (s.present (humidity11 s.blk.frame) (temperature11 s.blk.frame)) := rfl

/-- R142. -/
theorem exec_parse22 :
    exec .parse22 s = .next (s.present (humidity22 s.blk.frame) (temperature22 s.blk.frame)) := rfl

end

/-! ### The statements -/

/-- Settles O31: `csOk` is the test on the bytes' values. -/
theorem checkComparesTheSumModulo256 : Obligations.CheckComparesTheSumModulo256 := by
  intro s b0 b1 b2 b3 b4 hf
  have hsum := csOk_iff s.blk.frame
  simp only [hf, frameByte_append] at hsum
  rw [exec_check, hf]
  exact ⟨fun h => by rw [if_pos (hsum.2 h)]; rfl, fun h => by rw [if_neg (mt hsum.1 h)]; rfl⟩

/-- Settles O32: both registers are a byte in tenths. -/
theorem parse11ScalesTheBytes : Obligations.Parse11ScalesTheBytes := by
  intro s b0 b1 b2 b3 b4 hf
  have hhum : humidity11 s.blk.frame = byteTenths b0 := by
    rw [humidity11, hf, frameByte_append]
    rfl
  have htemp : temperature11 s.blk.frame = byteTenths b2 := by
    rw [temperature11, hf, frameByte_append]
    rfl
  refine ⟨byteTenths b0, byteTenths b2, toNat_byteTenths b0, toNat_byteTenths b2, sext_byteTenths b0,
    sext_byteTenths b2, fun h => ?_, fun h => ?_⟩
  · rw [exec_parse11, hhum, htemp, State.present_of_float _ _ h]
  · rw [exec_parse11, hhum, htemp, State.present_of_raw _ _ h]

/-- Settles O33: the humidity is the two bytes joined, the temperature their sign-magnitude reading. -/
theorem parse22ReadsSignMagnitude : Obligations.Parse22ReadsSignMagnitude := by
  intro s b0 b1 b2 b3 b4 hf
  have hhum : (humidity22 s.blk.frame).toNat = b0.toNat * 256 + b1.toNat := by
    rw [humidity22, toNat_append_bytes, hf, frameByte_append, frameByte_append]
    rfl
  have htemp := sext_temperature22 s.blk.frame
  simp only [hf, frameByte_append, Matrix.cons_val] at htemp
  have h2 := b2.isLt
  have h3 := b3.isLt
  refine ⟨humidity22 s.blk.frame, temperature22 s.blk.frame, hhum, fun h => ?_, fun h => ?_, fun h => ?_,
    fun h => ?_⟩
  · rw [hf, htemp, if_neg (by omega)]
    simp
  · rw [hf, htemp, if_pos (by omega)]
    congr 2
    omega
  · rw [exec_parse22, State.present_of_float _ _ h]
  · rw [exec_parse22, State.present_of_raw _ _ h]

/-- Settles O34: TOFLOAT is its defining assignment. -/
theorem toFloatDividesTheIntegers : Obligations.ToFloatDividesTheIntegers := fun _ => rfl

/-- Settles O36: by `parseFrame_eq`, with the parser's registers written out for each variant. -/
theorem parseFunctionAgreesWithTheRegisters : Obligations.ParseFunctionAgreesWithTheRegisters := by
  intro v f
  rw [parseFrame_eq]
  cases v with
  | v11 => rfl
  | v22 => rfl

end Sys2Proof.Machine
end

section
/-! The binary32 quotient of TOFLOAT (42_checksum_parser.md R150, 30_encoding.md R71): it is correctly rounded.
Every finite binary32 number lies on the grid of a binade or below the binade (`OnGrid`), and the significand of
`rn32Mag` is the integer nearest to the exact quotient in units of that grid (`roundQuotEven`). A negative quotient
is the mirror image of a positive one (`flipSign`). -/

namespace Sys2Proof.Machine

/-! ### Rounding to an integer -/

/-- R150: rounding up when the remainder is more than half the divisor, down when it is less, and to the even
quotient when it is half. -/
theorem roundQuotEven_cases (n d : Nat) :
    (roundQuotEven n d = n / d + 1 ∧ d ≤ 2 * (n % d) ∧ (2 * (n % d) = d → n / d % 2 = 1)) ∨
    (roundQuotEven n d = n / d ∧ 2 * (n % d) ≤ d ∧ (2 * (n % d) = d → n / d % 2 = 0)) := by
  simp only [roundQuotEven]
  split
  next h => exact .inl ⟨rfl, by omega⟩
  next h => exact .inr ⟨rfl, by omega⟩

/-- R150: a quotient in `[a, b)` is rounded into `[a, b]`. -/
theorem roundQuotEven_mem_Icc {n d a b : Nat} (hd : 0 < d) (ha : a * d ≤ n) (hb : n < b * d) :
    a ≤ roundQuotEven n d ∧ roundQuotEven n d ≤ b := by
  have hlow : a ≤ n / d := (Nat.le_div_iff_mul_le hd).2 ha
  have hhigh : n / d < b := (Nat.div_lt_iff_lt_mul hd).2 hb
  obtain ⟨h, -⟩ | ⟨h, -⟩ := roundQuotEven_cases n d <;> omega

/-- R150: the rounded quotient is at most half a unit off, and it is even when it is half a unit off. -/
theorem abs_roundQuotEven_sub (n : Nat) {d : Nat} (hd : 0 < d) :
    |(roundQuotEven n d : ℚ) - n / d| ≤ 1 / 2 ∧
      (|(roundQuotEven n d : ℚ) - n / d| = 1 / 2 → roundQuotEven n d % 2 = 0) := by
  have hd' : (0 : ℚ) < d := by exact_mod_cast hd
  have hquot : (n : ℚ) / d = (n / d : ℕ) + (n % d : ℕ) / d := by
    rw [div_eq_iff hd'.ne', add_mul, div_mul_cancel₀ _ hd'.ne']
    exact_mod_cast (Nat.div_add_mod' n d).symm
  have hlt : ((n % d : ℕ) : ℚ) / d < 1 := (div_lt_one hd').2 (by exact_mod_cast Nat.mod_lt n hd)
  have hhalf : ((n % d : ℕ) : ℚ) / d = 1 / 2 → 2 * (n % d) = d := by
    rw [div_eq_div_iff hd'.ne' two_ne_zero]
    intro h
    have h' : n % d * 2 = 1 * d := by exact_mod_cast h
    omega
  obtain ⟨hround, hrem, heven⟩ | ⟨hround, hrem, heven⟩ := roundQuotEven_cases n d
  · have hge : (1 : ℚ) / 2 ≤ (n % d : ℕ) / d := by
      rw [div_le_div_iff₀ two_pos hd']
      exact_mod_cast (by omega : 1 * d ≤ n % d * 2)
    have herr : |(roundQuotEven n d : ℚ) - n / d| = 1 - (n % d : ℕ) / d := by
      rw [hround, hquot, abs_of_nonneg] <;> push_cast <;> linarith
    rw [herr]
    refine ⟨by linarith, fun h => ?_⟩
    have := heven (hhalf (by linarith))
    omega
  · have hle : ((n % d : ℕ) : ℚ) / d ≤ 1 / 2 := by
      rw [div_le_div_iff₀ hd' two_pos]
      exact_mod_cast (by omega : n % d * 2 ≤ 1 * d)
    have herr : |(roundQuotEven n d : ℚ) - n / d| = (n % d : ℕ) / d := by
      rw [hround, hquot, sub_add_cancel_left, abs_neg, abs_of_nonneg (by positivity)]
    rw [herr, hround]
    exact ⟨hle, fun h => heven (hhalf h)⟩

/-- R150: no integer is nearer to the quotient than the rounded one, and in a tie that one is even. -/
theorem roundQuotEven_nearest (n : Nat) {d : Nat} (hd : 0 < d) (k : ℤ) :
    |(roundQuotEven n d : ℚ) - n / d| ≤ |(k : ℚ) - n / d| ∧
      (|(roundQuotEven n d : ℚ) - n / d| = |(k : ℚ) - n / d| → k ≠ roundQuotEven n d →
        roundQuotEven n d % 2 = 0) := by
  obtain ⟨hhalf, heven⟩ := abs_roundQuotEven_sub n hd
  by_cases hk : k = roundQuotEven n d
  · rw [hk]
    exact ⟨le_rfl, fun _ hne => absurd rfl hne⟩
  · have hgap : (1 : ℚ) ≤ |(k : ℚ) - roundQuotEven n d| := by
      exact_mod_cast Int.one_le_abs (sub_ne_zero.2 hk)
    have htri := abs_sub_le (k : ℚ) (n / d) (roundQuotEven n d)
    rw [abs_sub_comm ((n : ℚ) / d)] at htri
    exact ⟨by linarith, fun h _ => heven (by linarith)⟩

/-! ### The finite binary32 numbers -/

/-- The magnitude of the finite pattern with exponent field `e` and fraction field `f` (R71). -/
def f32Mag (e f : Nat) : ℚ :=
  ((if e = 0 then f else 2 ^ 23 + f : ℕ) : ℚ) * (2 : ℚ) ^ (((if e = 0 then 1 else e : ℕ) : ℤ) - 150)

/-- R71: the value of a pattern by its sign, exponent and fraction fields. -/
theorem f32Value_eq (w : F32) :
    f32Value w = if 2 ^ 31 ≤ w.toNat then -f32Mag (w.toNat / 2 ^ 23 % 256) (w.toNat % 2 ^ 23)
      else f32Mag (w.toNat / 2 ^ 23 % 256) (w.toNat % 2 ^ 23) := by
  have hsign : w.getLsbD 31 = decide (2 ^ 31 ≤ w.toNat) := by
    rw [← BitVec.msb_eq_getLsbD_last (x := w), BitVec.msb_eq_decide]
  simp only [f32Value, f32Mag, hsign, BitVec.extractLsb'_toNat, Nat.shiftRight_eq_div_pow, Nat.pow_zero,
    Nat.div_one, decide_eq_true_eq]

theorem f32Finite_iff (w : F32) : f32Finite w = true ↔ w.toNat / 2 ^ 23 % 256 ≠ 255 := by
  simp only [f32Finite, BitVec.extractLsb'_toNat, Nat.shiftRight_eq_div_pow, bne_iff_ne]

theorem getLsbD_zero_eq (w : F32) : w.getLsbD 0 = decide (w.toNat % 2 = 1) := by
  rw [BitVec.getLsbD, Nat.testBit_zero]

/-- The unit of the significands of the numbers with exponent field `E`. -/
def ulp (E : Nat) : ℚ := (2 : ℚ) ^ ((E : ℤ) - 150)

theorem ulp_pos (E : Nat) : 0 < ulp E := zpow_pos two_pos _

theorem ulp_add (E n : Nat) : ulp (E + n) = 2 ^ n * ulp E := by
  rw [ulp, ulp, ← zpow_natCast, ← zpow_add₀ two_ne_zero]
  congr 1
  push_cast
  ring

/-- `v` is a multiple of the unit of the binade `E`, or lies below that binade. -/
def OnGrid (E : Nat) (v : ℚ) : Prop := (∃ k : ℤ, v = k * ulp E) ∨ |v| < 2 ^ 23 * ulp E

theorem OnGrid.neg {E : Nat} {v : ℚ} (h : OnGrid E v) : OnGrid E (-v) := by
  obtain ⟨k, hk⟩ | hsmall := h
  · exact .inl ⟨-k, by rw [hk]; push_cast; ring⟩
  · exact .inr (by rwa [abs_neg])

/-- A 24-bit significand in the unit of the exponent field `e` is on the grid of `E`: a multiple of the unit when
`E ≤ e`, below the binade when not. -/
theorem onGrid_mul_ulp {E sig : Nat} (hsig : sig < 2 ^ 24) (e : Nat) : OnGrid E (sig * ulp e) := by
  obtain hle | hlt := le_or_gt E e
  · obtain ⟨n, rfl⟩ := Nat.exists_eq_add_of_le hle
    exact .inl ⟨sig * 2 ^ n, by rw [ulp_add]; push_cast; ring⟩
  · obtain ⟨n, rfl⟩ := Nat.exists_eq_add_of_lt hlt
    have hsig' : (sig : ℚ) < 2 ^ 24 := by exact_mod_cast hsig
    have hpow : (1 : ℚ) ≤ 2 ^ n := one_le_pow₀ one_le_two
    refine .inr ?_
    have hu := ulp_pos e
    calc |(sig : ℚ) * ulp e| = sig * ulp e := abs_of_nonneg (by positivity)
      _ < 2 ^ 24 * ulp e := by gcongr
      _ ≤ 2 ^ 24 * (2 ^ n * ulp e) := by gcongr; exact le_mul_of_one_le_left hu.le hpow
      _ = 2 ^ 23 * ulp (e + n + 1) := by rw [ulp_add, ulp_add]; ring

theorem onGrid_f32Value (E : Nat) (w : F32) : OnGrid E (f32Value w) := by
  have hmag : OnGrid E (f32Mag (w.toNat / 2 ^ 23 % 256) (w.toNat % 2 ^ 23)) :=
    onGrid_mul_ulp (by split <;> omega) _
  rw [f32Value_eq]
  split
  · exact hmag.neg
  · exact hmag

/-- The pattern with the opposite sign bit. -/
def flipSign (w : F32) : F32 := BitVec.ofNat 32 (2 ^ 31 + w.toNat)

theorem toNat_flipSign (w : F32) : (flipSign w).toNat = (2 ^ 31 + w.toNat) % 2 ^ 32 := rfl

@[simp] theorem f32Finite_flipSign (w : F32) : f32Finite (flipSign w) = f32Finite w := by
  have := w.isLt
  rw [Bool.eq_iff_iff, f32Finite_iff, f32Finite_iff, toNat_flipSign]
  omega

@[simp] theorem f32Value_flipSign (w : F32) : f32Value (flipSign w) = -f32Value w := by
  have hw := w.isLt
  have he : (2 ^ 31 + w.toNat) % 2 ^ 32 / 2 ^ 23 % 256 = w.toNat / 2 ^ 23 % 256 := by omega
  have hf : (2 ^ 31 + w.toNat) % 2 ^ 32 % 2 ^ 23 = w.toNat % 2 ^ 23 := by omega
  rw [f32Value_eq, f32Value_eq, toNat_flipSign, he, hf]
  by_cases hs : 2 ^ 31 ≤ w.toNat
  · rw [if_neg (by omega), if_pos hs, neg_neg]
  · rw [if_pos (by omega), if_neg hs]

@[simp] theorem getLsbD_zero_flipSign (w : F32) : (flipSign w).getLsbD 0 = w.getLsbD 0 := by
  rw [getLsbD_zero_eq, getLsbD_zero_eq, toNat_flipSign]
  congr 2
  omega

/-! ### Correct rounding -/

/-- `w` is finite, no finite number is nearer to `q`, and in a tie `w` has the even significand (R150). -/
def RoundsTo (w : F32) (q : ℚ) : Prop :=
  f32Finite w = true ∧ ∀ w' : F32, f32Finite w' = true →
    |f32Value w - q| ≤ |f32Value w' - q| ∧
    (|f32Value w - q| = |f32Value w' - q| → f32Value w' ≠ f32Value w → w.getLsbD 0 = false)

/-- Rounding is symmetric: the competitors of the flipped pattern are the flipped competitors. -/
theorem RoundsTo.neg {w : F32} {q : ℚ} (h : RoundsTo w q) : RoundsTo (flipSign w) (-q) := by
  obtain ⟨hfin, hnear⟩ := h
  refine ⟨by simpa using hfin, fun w' hw' => ?_⟩
  obtain ⟨hle, htie⟩ := hnear (flipSign w') (by simpa using hw')
  have hdist (x : ℚ) : |x - -q| = |-x - q| := by rw [← abs_neg]; congr 1; ring
  simp only [f32Value_flipSign, getLsbD_zero_flipSign, hdist, neg_neg] at hle htie ⊢
  exact ⟨hle, fun heq hne => htie heq fun h => hne (by rw [← h, neg_neg])⟩

/-- R150: when the quotient `n / d`, in the unit of a binade, lies in that binade, no number on the binade's grid is
nearer to it than the rounded quotient. -/
theorem roundQuotEven_nearest_onGrid (n : Nat) {d : Nat} (hd : 0 < d) (hn : 2 ^ 23 ≤ (n : ℚ) / d)
    {E : Nat} {v : ℚ} (hv : OnGrid E v) :
    |(roundQuotEven n d : ℚ) * ulp E - n / d * ulp E| ≤ |v - n / d * ulp E| ∧
      (|(roundQuotEven n d : ℚ) * ulp E - n / d * ulp E| = |v - n / d * ulp E| →
        v ≠ roundQuotEven n d * ulp E → roundQuotEven n d % 2 = 0) := by
  have hu := ulp_pos E
  have hunit (x : ℚ) : |x * ulp E - n / d * ulp E| = |x - n / d| * ulp E := by
    rw [← sub_mul, abs_mul, abs_of_pos hu]
  rw [hunit]
  obtain ⟨k, rfl⟩ | hsmall := hv
  · obtain ⟨hle, htie⟩ := roundQuotEven_nearest n hd k
    rw [hunit]
    refine ⟨mul_le_mul_of_nonneg_right hle hu.le, fun heq hne => ?_⟩
    exact htie (mul_right_cancel₀ hu.ne' heq) fun h => hne (by rw [h]; norm_cast)
  · have hlow : |(roundQuotEven n d : ℚ) - n / d| ≤ n / d - 2 ^ 23 := by
      have hle := (roundQuotEven_nearest n hd (2 ^ 23)).1
      rwa [Int.cast_pow, Int.cast_ofNat, abs_sub_comm (2 ^ 23), abs_of_nonneg (sub_nonneg.2 hn)] at hle
    have hlt : |(roundQuotEven n d : ℚ) - n / d| * ulp E < |v - n / d * ulp E| :=
      calc |(roundQuotEven n d : ℚ) - n / d| * ulp E ≤ (n / d - 2 ^ 23) * ulp E :=
            mul_le_mul_of_nonneg_right hlow hu.le
        _ = n / d * ulp E - 2 ^ 23 * ulp E := sub_mul ..
        _ < n / d * ulp E - v := by linarith [le_abs_self v]
        _ ≤ |v - n / d * ulp E| := by rw [abs_sub_comm]; exact le_abs_self _
    exact ⟨hlt.le, fun heq => absurd heq hlt.ne⟩

/-- R71: the pattern with exponent field `E` and significand `sig`; a significand of `2 ^ 24` carries into the
exponent. -/
theorem f32Value_ofNat {E sig : Nat} (hE : 1 ≤ E) (hE' : E < 254) (h : 2 ^ 23 ≤ sig) (h' : sig ≤ 2 ^ 24) :
    f32Value (BitVec.ofNat 32 (E * 2 ^ 23 + (sig - 2 ^ 23))) = sig * ulp E := by
  have htoNat : (BitVec.ofNat 32 (E * 2 ^ 23 + (sig - 2 ^ 23))).toNat = E * 2 ^ 23 + (sig - 2 ^ 23) := by
    rw [BitVec.toNat_ofNat]
    omega
  rw [f32Value_eq, htoNat, if_neg (by omega)]
  obtain hlt | hcarry := h'.lt_or_eq
  · have he : (E * 2 ^ 23 + (sig - 2 ^ 23)) / 2 ^ 23 % 256 = E := by omega
    have hf : (E * 2 ^ 23 + (sig - 2 ^ 23)) % 2 ^ 23 = sig - 2 ^ 23 := by omega
    rw [he, hf, f32Mag, if_neg (by omega), if_neg (by omega), Nat.add_sub_cancel' h, ulp]
  · have he : (E * 2 ^ 23 + (sig - 2 ^ 23)) / 2 ^ 23 % 256 = E + 1 := by omega
    have hf : (E * 2 ^ 23 + (sig - 2 ^ 23)) % 2 ^ 23 = 0 := by omega
    have hsig : (sig : ℚ) = 2 ^ 24 := by exact_mod_cast hcarry
    rw [he, hf, f32Mag, if_neg (by omega), if_neg (by omega), ← ulp, ulp_add, hsig]
    push_cast
    ring

/-- R150: `rn32Mag` with its exponent `p` named. -/
theorem rn32Mag_of_log2 {m p : Nat} (h : Nat.log2 (m * 2 ^ 27 / 10) = p) :
    rn32Mag m = (p + 100) * 2 ^ 23 + (roundQuotEven (m * 2 ^ 27) (10 * 2 ^ (p - 23)) - 2 ^ 23) := by
  subst h
  rfl

/-- R150: the pattern of a tenth is a finite exponent field and a rounded quotient that lies in its binade. -/
theorem rn32Mag_eq {m : Nat} (hm : 1 ≤ m) (hm' : m < 2 ^ 16) :
    ∃ r < 17, 2 ^ 23 * (10 * 2 ^ r) ≤ m * 2 ^ 27 ∧ m * 2 ^ 27 < 2 ^ 24 * (10 * 2 ^ r) ∧
      rn32Mag m = (123 + r) * 2 ^ 23 + (roundQuotEven (m * 2 ^ 27) (10 * 2 ^ r) - 2 ^ 23) := by
  have hne : m * 2 ^ 27 / 10 ≠ 0 := by omega
  have hlow : 23 ≤ Nat.log2 (m * 2 ^ 27 / 10) := (Nat.le_log2 hne).2 (by omega)
  have hhigh : Nat.log2 (m * 2 ^ 27 / 10) < 40 := (Nat.log2_lt hne).2 (by omega)
  have hle := Nat.log2_self_le hne
  have hlt := Nat.lt_log2_self (n := m * 2 ^ 27 / 10)
  obtain ⟨r, hr⟩ := Nat.exists_eq_add_of_le hlow
  rw [hr, pow_add] at hle
  rw [hr, add_right_comm, pow_add] at hlt
  refine ⟨r, by omega, by omega, by omega, ?_⟩
  rw [rn32Mag_of_log2 hr, Nat.add_sub_cancel_left]
  omega

/-- R150: a tenth in the unit of the exponent field `123 + r`. -/
theorem tenth_eq_mul_ulp (m r : Nat) :
    (m : ℚ) / 10 = (m * 2 ^ 27 : ℕ) / (10 * 2 ^ r : ℕ) * ulp (123 + r) := by
  have hulp : ulp 123 = 1 / 2 ^ 27 := by norm_num [ulp]
  rw [ulp_add, hulp]
  push_cast
  field_simp
  norm_num

/-- R150: the magnitude of a tenth is rounded correctly, and leaves the sign bit free. -/
theorem roundsTo_rn32Mag {m : Nat} (hm : 1 ≤ m) (hm' : m < 2 ^ 16) :
    rn32Mag m < 2 ^ 31 ∧ RoundsTo (BitVec.ofNat 32 (rn32Mag m)) (m / 10) := by
  obtain ⟨r, hr, hlow, hhigh, hmag⟩ := rn32Mag_eq hm hm'
  have hd : 0 < 10 * 2 ^ r := by positivity
  obtain ⟨hsig, hsig'⟩ := roundQuotEven_mem_Icc hd hlow hhigh
  have hbound : rn32Mag m < 141 * 2 ^ 23 := by omega
  have htoNat : (BitVec.ofNat 32 (rn32Mag m)).toNat = rn32Mag m := by
    rw [BitVec.toNat_ofNat]
    omega
  have hvalue : f32Value (BitVec.ofNat 32 (rn32Mag m)) =
      roundQuotEven (m * 2 ^ 27) (10 * 2 ^ r) * ulp (123 + r) := by
    rw [hmag, f32Value_ofNat (by omega) (by omega) hsig hsig']
  have hbinade : 2 ^ 23 ≤ ((m * 2 ^ 27 : ℕ) : ℚ) / (10 * 2 ^ r : ℕ) := by
    rw [le_div_iff₀ (by exact_mod_cast hd)]
    exact_mod_cast hlow
  refine ⟨by omega, (f32Finite_iff _).2 (by omega), fun w _ => ?_⟩
  obtain ⟨hle, htie⟩ := roundQuotEven_nearest_onGrid _ hd hbinade (onGrid_f32Value (123 + r) w)
  rw [hvalue, tenth_eq_mul_ulp m r, getLsbD_zero_eq, htoNat]
  refine ⟨hle, fun heq hne => ?_⟩
  have := htie heq hne
  exact decide_eq_false (by omega)

/-- R150: zero has the pattern of `+0.0`. -/
theorem roundsTo_zero : RoundsTo 0 0 := by
  have hzero : f32Value 0 = 0 := by simp [f32Value_eq, f32Mag]
  refine ⟨rfl, fun w _ => ?_⟩
  rw [hzero, sub_zero, abs_zero]
  exact ⟨abs_nonneg _, fun _ _ => rfl⟩

/-- R150: the tenth of every 16-bit integer is rounded correctly. -/
theorem roundsTo_rn32Tenths {n : ℤ} (hn : n.natAbs < 2 ^ 16) : RoundsTo (rn32Tenths n) (n / 10) := by
  unfold rn32Tenths
  split_ifs with hzero hneg
  · simpa [hzero] using roundsTo_zero
  · obtain ⟨hbound, hround⟩ := roundsTo_rn32Mag (by omega) hn
    have htenth : (n : ℚ) / 10 = -((n.natAbs : ℕ) / 10) := by
      rw [← neg_div, ← Int.cast_natCast, Int.ofNat_natAbs_of_nonpos hneg.le, Int.cast_neg, neg_neg]
    have hflip : BitVec.ofNat 32 (2 ^ 31 + rn32Mag n.natAbs) =
        flipSign (BitVec.ofNat 32 (rn32Mag n.natAbs)) := by
      rw [flipSign, BitVec.toNat_ofNat, Nat.mod_eq_of_lt (by omega)]
    rw [htenth, hflip]
    exact hround.neg
  · have htenth : (n : ℚ) / 10 = (n.natAbs : ℕ) / 10 := by
      rw [← Int.cast_natCast, Int.natAbs_of_nonneg (not_lt.1 hneg)]
    rw [htenth]
    exact (roundsTo_rn32Mag (by omega) hn).2

/-- Settles O35: `RoundsTo` written out, over the i16 integers. -/
theorem quotientIsTheNearestFloat : Obligations.QuotientIsTheNearestFloat :=
  ⟨rfl, fun _ h h' => roundsTo_rn32Tenths (by omega)⟩

end Sys2Proof.Machine
end

section
/-! The commands as the caller meets them (43_commands.md R160, R165, R166). Waiting: a ready sequencer whose caller
asks for nothing uses up its inputs and changes nothing else, so a run of any length has a closed form
(`run_waiting`). Busy: the caller's inputs reach a step through reset and the selected word alone (`step_congr`), and
a busy block selects its word without `start` and `cmd`. -/

namespace Sys2Proof.Machine

section
variable {s : State}

theorem Block.ready_iff (b : Block) : b.ready = true ↔ b.phase = .idle ∨ b.phase = .done := by
  simp [Block.ready]

theorem Block.ready_of_busy {b : Block} (h : b.busy = true) : b.ready = false := by
  rw [Block.ready_eq_not_busy, h]
  rfl

/-- R165: while busy a command is ignored. -/
theorem State.command_of_busy {f : Fmt} {v : Variant} (h : s.blk.ready = false) : s.command f v = s :=
  if_neg (Bool.eq_false_iff.mp h)

/-! ### Waiting -/

/-- With no request outstanding, taking the step's inputs changes nothing else. -/
theorem State.latched_of_no_request (hp : s.prim = PrimReq.none) :
    s.latched = { s with inputs := s.inputs.drop 1 } := by
  rw [State.latched, ← hp]

/-- R160: a ready sequencer without `start` and reset only uses up the step's inputs. -/
theorem step_of_no_start (hv : s.cfg.valid = true) (hp : s.prim = PrimReq.none) (hb : s.blk.ready = true)
    (hr : s.nextInput.rst = none) (hs : s.nextInput.start = false) :
    step s = .next { s with inputs := s.inputs.drop 1 } := by
  have hcode : s.prim.code = 0 := by rw [hp]; rfl
  rw [step_of_waiting hv hr (State.fetchWord_of_no_start hcode hb hs), State.latched_of_no_request hp]

/-- What holds of every queued input and of a quiet caller holds of the next step's inputs (assumption 3). -/
theorem State.nextInput_of_forall {P : StepInput → Prop} (hq : P StepInput.quiet) (h : ∀ inp ∈ s.inputs, P inp) :
    P s.nextInput := by
  unfold State.nextInput
  cases hi : s.inputs with
  | nil => exact hq
  | cons inp rest => exact h inp (by simp [hi])

end

/-- R160, R166: a ready sequencer whose caller asks for nothing waits, for any number of steps. -/
theorem run_waiting (n : Nat) {s : State} (hv : s.cfg.valid = true) (hp : s.prim = PrimReq.none)
    (hb : s.blk.ready = true) (hquiet : ∀ inp ∈ s.inputs, inp.rst = none ∧ inp.start = false) :
    Host.Core.run Sys2Proof.core n s = .next { s with inputs := s.inputs.drop n } := by
  induction n generalizing s with
  | zero => rfl
  | succ n ih =>
    obtain ⟨hr, hs⟩ := State.nextInput_of_forall ⟨rfl, rfl⟩ hquiet
    have hrest : ∀ inp ∈ s.inputs.drop 1, inp.rst = none ∧ inp.start = false :=
      fun inp hinp => hquiet inp (List.mem_of_mem_drop hinp)
    rw [core_run_succ (step_of_no_start hv hp hb hr hs),
      ih (s := { s with inputs := s.inputs.drop 1 }) hv hp hb hrest]
    simp

/-- Settles O11: the closed form of the waiting run, in `Done`. -/
theorem outcomeIsHeldUntilTheNextCommand : Obligations.OutcomeIsHeldUntilTheNextCommand :=
  fun n s hv hp hd hquiet =>
    ⟨_, run_waiting n hv hp ((Block.ready_iff s.blk).2 (.inr hd)) hquiet, rfl, rfl, rfl, rfl⟩

/-- Settles O10: one step of waiting, in `Idle` or `Done`. -/
theorem waitingChangesNothing : Obligations.WaitingChangesNothing :=
  fun s hv hp hphase hr hs => step_of_no_start hv hp ((Block.ready_iff s.blk).2 hphase) hr hs

/-! ### Busy -/

/-- The inputs of a step act through reset and through the selected word, and in no other way. -/
theorem step_congr {s t : State} (hlatched : s.latched = t.latched) (hrst : s.nextInput.rst = t.nextInput.rst)
    (hword : s.fetchWord = t.fetchWord) : step s = step t := by
  have hcfg : s.cfg = t.cfg := by simpa using congrArg State.cfg hlatched
  simp only [step, hcfg, hlatched, hrst, hword]

/-- R165: the word a busy block selects does not depend on the inputs. -/
theorem State.fetchWord_of_busy_inputs {s : State} (hb : s.blk.ready = false) (inputs : List StepInput) :
    State.fetchWord { s with inputs := inputs } = s.fetchWord := by
  simp [State.fetchWord, hb]

/-- Settles O9: a busy block ignores a command that is run on it, and a step of it sees neither `start` nor `cmd`,
because they are no part of the word it selects. -/
theorem startIsIgnoredWhileBusy : Obligations.StartIsIgnoredWhileBusy := by
  refine ⟨fun s f v hb => ?_, fun s inp rest start cmd hb hin => step_congr ?latched ?rst ?word⟩
  · rw [exec_commandOf, State.command_of_busy (Block.ready_of_busy hb)]
  case latched => simp [State.latched, hin]
  case rst => simp [State.nextInput, hin]
  case word => exact State.fetchWord_of_busy_inputs (Block.ready_of_busy hb) _

end Sys2Proof.Machine
end

section
/-! The effect of a failure (60_exceptions.md R180). -/

namespace Sys2Proof.Machine

/-- Settles O30: `status`, its code and `err_index` are read off for each of the five failures; no other register
looks at which failure it is. -/
theorem raiseClearsEverythingSurfaced : Obligations.RaiseClearsEverythingSurfaced := by
  refine fun f s => ⟨?registers, ?code, Block.outcome_raise s.blk f⟩
  case registers => cases f <;> rfl
  case code => cases f <;> rfl

end Sys2Proof.Machine
end

section
/-! Reset (70_reset_and_hazards.md R200 to R202). A reset step ends in the state `resetDuring` makes of the step it
cuts short, whatever that step was; what the cut leaves of REQUEST is its first pin action, as long as the low hold
lasts. -/

namespace Sys2Proof.Machine

/-- Settles O6: `resetDuring` writes the registers, the request and the last pin action without looking at the step
it cuts short, and at the latest at the tick of the reset. -/
theorem resetFromEveryState : Obligations.ResetFromEveryState := by
  intro s k hv hr
  obtain ⟨t, ht⟩ := step_of_reset hv hr
  exact ⟨s.latched.resetDuring k t, ht, rfl, rfl, rfl, rfl, min_le_left .., rfl⟩

section
variable {s : State} {k : Nat}

/-- R200, R201: reset during a micro-operation cuts that micro-operation short. -/
theorem step_of_reset_in_microOp {i : Instr} {t : State} (hv : s.cfg.valid = true) (hp : s.prim.code = 0)
    (hr : s.nextInput.rst = some k) (hd : decodeMicroOp s.blk.variantQ s.blk.phase = .instr i)
    (ht : exec i s.latched = .next t) : step s = .next (s.latched.resetDuring k t) := by
  have hw := State.fetchWord_of_busy hp (Block.ready_of_microOp hd)
  simp [step, hv, hr, hw, hd, ht, State.underReset]

/-- R111, R201: a reset within REQUEST's low hold leaves the start of the low pulse and its own end of driving. -/
theorem State.resetDuring_request {t : State} (ht : exec .request s = .next t) (hk : 0 < k)
    (hhold : k < s.cfg.tHoldLow.toNat) :
    s.resetDuring k t = { s with
      blk := Block.reset, tick := s.tick + k, prim := PrimReq.none, ret := .none
      log := .drive (s.tick + k) false true :: .drive s.tick true false :: s.log } := by
  obtain ⟨htick, hlog⟩ : t.tick = s.tick + s.cfg.tHoldLow.toNat + s.cfg.tReleaseHigh.toNat ∧ t.log =
      [.drive (s.tick + s.cfg.tHoldLow.toNat + s.cfg.tReleaseHigh.toNat) false true,
        .drive (s.tick + s.cfg.tHoldLow.toNat) true true, .drive s.tick true false] ++ s.log := by
    cases (requestDrivesTheWakePulse s).symm.trans ht
    exact ⟨rfl, rfl⟩
  have hnow : min (s.tick + k) t.tick = s.tick + k := by omega
  have hraise : ¬ s.cfg.tHoldLow.toNat < k := by omega
  have hrelease : ¬ s.tick + s.cfg.tHoldLow.toNat + s.cfg.tReleaseHigh.toNat < s.tick + k := by omega
  have hkept : s.eventsBefore t (s.tick + k) = [.drive s.tick true false] := by
    rw [State.eventsBefore_of_append hlog]
    simp [Event.tick, hk, hraise, hrelease]
  simp [State.resetDuring, hnow, hkept, Event.isSample]

end

/-- Settles O7: the step cut short is REQUEST's. -/
theorem resetCutsTheLowHoldShort : Obligations.ResetCutsTheLowHoldShort := by
  intro s k hv hp hphase hr hk hhold
  have hd : decodeMicroOp s.blk.variantQ s.blk.phase = .instr .request := by rw [hphase]; rfl
  have ht := requestDrivesTheWakePulse s.latched
  rw [step_of_reset_in_microOp hv (by rw [hp]; rfl) hr hd ht, State.resetDuring_request ht hk hhold,
    State.latched_of_no_request hp, hp]

/-- Settles O8: a ready sequencer accepts, and each command is its format and variant. -/
theorem commandIsAccepted : Obligations.CommandIsAccepted := by
  intro s f v hphase
  rw [exec_commandOf, State.command_of_ready ((Block.ready_iff s.blk).2 hphase)]
  rfl

end Sys2Proof.Machine
end
